-- ==== Sys2Proof/Word.lean ====
section
/-! DEFINITION. The widths the spec names (00_scope.md R14): a byte, a 16-bit word (a colour word, a PCM
sample, an address, a port, an offset) and the 32-bit transaction word. -/

namespace Sys2Proof

/-- `u8` of R14. -/
abbrev Byte := BitVec 8

/-- `u16` of R14. -/
abbrev Half := BitVec 16

/-- `u32` of R14: a transaction word (30_encoding.md R100), a sprite row (R114), a millisecond time (R124). -/
abbrev Word := BitVec 32

end Sys2Proof
end

