-- ==== Sys2Proof/Config.lean ====
section
/-! DEFINITION. The parameter record of 00_scope.md R12 ("a model takes the parameters as one configuration
record") and the free values of the block. The values of the profiles P0 and P0-MS are in
`Sys2Proof/Machine/Profile.lean`. -/

namespace Sys2Proof

/-- `PAL_XFORM` of R12 (10_state.md R43). -/
inductive PalXform
  | swap16
  | identity
  deriving DecidableEq, Repr

/-- `RESET_FILL` of R12 (10_state.md R65). -/
inductive ResetFill
  | zero
  | arbitrary
  deriving DecidableEq, Repr

/-- R12, table "Geometry and tile-address scrambler". `W`, `H` and `NBANDS` are derived. -/
structure GeoParams where
  nrows       : Nat
  ncols       : Nat
  tileW       : Nat
  tileH       : Nat
  bandLines   : Nat
  topRows     : Nat
  botRows     : Nat
  tasTopBase  : Int
  tasBotBase  : Int
  tasMainBase : Int
  tasStride   : Int
  vramOff     : Nat
  cramOff     : Nat
  ntiles      : Nat
  bandFirst   : Nat
  bandCount   : Nat
  hOffset     : Nat
  deriving DecidableEq, Repr

/-- R12, table "Sprite compositor". `NGROUPS` is derived. -/
structure SprParams where
  nsprites     : Nat
  sprW         : Nat
  sprH         : Nat
  nflip        : Nat
  sprCodeLimit : Nat
  spraOff      : Nat
  sprpOff      : Nat
  sprXBias     : Int
  sprYBias     : Int
  colorMask    : Byte
  groupLen     : Nat
  palXform     : PalXform
  black        : Half
  deriving DecidableEq, Repr

/-- R12, table "Memory and I/O controller". `SPRA_ADDR` and `SPRP_ADDR` are derived. -/
structure MapParams where
  addrW        : Nat
  wrMask       : Half
  romWin       : Nat
  blockBase    : Nat
  blockSize    : Nat
  blkRdEnd     : Nat
  ioBase       : Nat
  ioEnd        : Nat
  in0Addr      : Half
  in1Addr      : Half
  dswAddr      : Half
  dswValue     : Byte
  ieAddr       : Nat
  sndBase      : Nat
  sndSize      : Nat
  unmapped     : Byte
  hasAux       : Bool
  auxBase      : Nat
  auxSize      : Nat
  auxRomOff    : Nat
  romImageSize : Nat
  vecPort      : Byte
  portRdValue  : Byte
  resetFill    : ResetFill
  deriving DecidableEq, Repr

/-- The sound registers of one voice (R12 `SND_WAVE`, `SND_FREQ`, `SND_VOL`): the waveform select, the volume, and the
frequency nibbles with the bit at which each one stands (30_encoding.md R111). -/
structure VoiceRegs where
  wave : Nat
  vol  : Nat
  freq : List (Nat × Nat)
  deriving DecidableEq, Repr

/-- R12, table "Wavetable synthesizer". `SAMPLE_T` is the signed integer type of `sampleBits` bits. `NVOICES` is a field; that
it is 3 (44_wavetable_synth.md R232) is checked at `RESET`, so there are the registers of three voices (log 22). -/
structure SynthParams where
  nvoices          : Nat
  waveLen          : Nat
  nwaves           : Nat
  phaseW           : Nat
  phaseShift       : Nat
  idxMask          : Nat
  gain             : Int
  clampLo          : Int
  clampHi          : Int
  bias             : Int
  voices           : Vector VoiceRegs 3
  sampleBits       : Nat
  sampleRate       : Nat
  audioRefillBands : Nat
  audioSlice       : Nat
  deriving DecidableEq, Repr

/-- R12, table "Frame orchestrator, input and power". `STATE2_GATE`, a total predicate on a byte, is written as the 256
answers of it, bit `b` for the byte `b`. -/
structure OrchParams where
  cpuBudget     : Nat
  tickPeriodUs  : Nat
  coinHoldMs    : Nat
  startDelayMs  : Nat
  startHoldMs   : Nat
  tiltOn        : Int
  tiltOff       : Int
  tiltPitchSign : Int
  tiltRollSign  : Int
  silenceFrames : Nat
  idleFrames    : Nat
  blFull        : Byte
  blDim         : Byte
  modeOff       : Nat
  state2Off     : Nat
  state2Gate    : BitVec 256
  attractValue  : Byte
  playValue     : Byte
  playThreshold : Byte
  graceTicks    : Nat
  creditOffA    : Nat
  creditOffB    : Nat
  deriving DecidableEq, Repr

/-- The parameter record of R12. -/
structure Params where
  geo  : GeoParams
  spr  : SprParams
  map  : MapParams
  wsg  : SynthParams
  orch : OrchParams
  deriving DecidableEq, Repr

/-- A byte nobody wrote, drawn at a `RESET` with `RESET_FILL = ARBITRARY` (10_state.md R65, 93_implementation_defined.md
U5): the first argument is the number of the draw, the second the place. A free value (log 9). -/
opaque Config.drawByte : Nat → Nat → Byte

/-- A band-buffer word that no rule gives (R65, U6): number of the draw, buffer, line, column. It is drawn at a `RESET` (log 7)
and when DISP has read the buffer (log 28). A free value. -/
opaque Config.drawPixel : Nat → Nat → Nat → Nat → Half

/-- `tick_t0` drawn at a `RESET` (R65): number of the draw. A free value (log 8). -/
opaque Config.drawTime : Nat → BitVec 64

/-- What a sprite coordinate outside the 16-bit range is when it is stored as an `i16` (10_state.md R45); no rule says. A free
value (log 26). -/
opaque Config.wideCoord : Int → BitVec 16

/-- `PALX[g][e]` for an `e` of `GROUP_LEN` or more (10_state.md R43, 30_encoding.md R116): a record with `GROUP_LEN` below 4, which
no rule forbids, has no such entry. A free value (log 31). -/
opaque Config.noColour : Nat → Nat → Half

/-- Pixel `px` of a tile row, `px` 8 or more (30_encoding.md R114): a record with `TILE_W` above 8, which no rule forbids, asks for
it, and a row holds 8. A free value of the row and the pixel (log 32). -/
opaque Config.noTilePixel : Half → Nat → BitVec 2

/-- `TG[t][r]` for a `t` of `NTILES` or more (10_state.md R42), under a record with `NTILES` below 256. A free value (log 33). -/
opaque Config.noTileRow : Nat → Nat → Half

/-- `SG[f][k][r]` for an `f` of `NFLIP` or more (10_state.md R42), under a record with `NFLIP` below 4. A free value (log 33). -/
opaque Config.noSpriteRow : Nat → Nat → Nat → Word

/-- `n(i)` for an `i` of `SND_SIZE` or more (30_encoding.md R111), under a record that names such a register for a voice. A free value
(log 34). -/
opaque Config.noNibble : Nat → BitVec 4

/-- What `SAMPLE()` returns as a `u16` when `out` lies outside `[0, 65535]` (44_wavetable_synth.md R235); no rule says, and none keeps
`CLAMP_LO`, `CLAMP_HI` and `BIAS` from it. A free value (log 29). -/
opaque Config.wideSample : Int → Half

end Sys2Proof
end

