-- ==== Sys2Proof/Machine/Profile.lean ====
section
/-! DEFINITION. The derived parameters and the reference profiles of 00_scope.md R12: P0, and P0-MS (P0 with the
auxiliary ROM window). An open parameter has the test value of 95_test_vectors.md; `STATE2_OFF`, for which the spec gives
none, is a DESIGN CHOICE (log 4). -/

namespace Sys2Proof

/-- `W`, native width in pixels. -/
def Params.width (c : Params) : Nat := c.geo.tileW * c.geo.ncols

/-- `H`, native height in pixels. -/
def Params.height (c : Params) : Nat := c.geo.tileH * c.geo.nrows

/-- `NBANDS`, bands per native frame. -/
def Params.nbands (c : Params) : Nat := c.height / c.geo.bandLines

/-- `NGROUPS`, colour groups in the palette. -/
def Params.ngroups (c : Params) : Nat := c.spr.colorMask.toNat + 1

/-- `SPRA_ADDR`, the CPU address of `SPRA_OFF`. -/
def Params.spraAddr (c : Params) : Nat := c.map.blockBase + c.spr.spraOff

/-- `SPRP_ADDR`, the CPU address of `SPRP_OFF`. -/
def Params.sprpAddr (c : Params) : Nat := c.map.blockBase + c.spr.sprpOff

namespace Machine

/-- P0, geometry and scrambler. -/
def p0Geo : GeoParams :=
  { nrows := 36, ncols := 28, tileW := 8, tileH := 8, bandLines := 8, topRows := 2, botRows := 2
    tasTopBase := 0x3DD, tasBotBase := 0x01D, tasMainBase := 0x3A0, tasStride := 0x20
    vramOff := 0x000, cramOff := 0x400, ntiles := 256, bandFirst := 0, bandCount := 36, hOffset := 8 }

/-- P0, sprite compositor. -/
def p0Spr : SprParams :=
  { nsprites := 8, sprW := 16, sprH := 16, nflip := 4, sprCodeLimit := 64
    spraOff := 0x0FF0, sprpOff := 0x1060, sprXBias := 239, sprYBias := 272
    colorMask := 0x3F#8, groupLen := 4, palXform := .swap16, black := 0x0000#16 }

/-- P0, memory and I/O controller. -/
def p0Map : MapParams :=
  { addrW := 16, wrMask := 0x7FFF#16, romWin := 0x4000, blockBase := 0x4000, blockSize := 0x2000, blkRdEnd := 0x5000
    ioBase := 0x5000, ioEnd := 0x6000, in0Addr := 0x5000#16, in1Addr := 0x5040#16, dswAddr := 0x5080#16
    dswValue := 0xC9#8, ieAddr := 0x5000, sndBase := 0x5040, sndSize := 32, unmapped := 0xFF#8
    hasAux := false, auxBase := 0x8000, auxSize := 0x2000, auxRomOff := 0x4000, romImageSize := 0x4000
    vecPort := 0x00#8, portRdValue := 0xFF#8, resetFill := .zero }

/-- P0, the sound registers of voice 0: five frequency nibbles, bits `[19:0]` (30_encoding.md R110, R111). -/
def p0Voice0 : VoiceRegs :=
  { wave := 0x05, vol := 0x15, freq := [(0x10, 0), (0x11, 4), (0x12, 8), (0x13, 12), (0x14, 16)] }

/-- P0, voice 1: four frequency nibbles, bits `[19:4]`. -/
def p0Voice1 : VoiceRegs :=
  { wave := 0x0A, vol := 0x1A, freq := [(0x16, 4), (0x17, 8), (0x18, 12), (0x19, 16)] }

/-- P0, voice 2: four frequency nibbles, bits `[19:4]`. -/
def p0Voice2 : VoiceRegs :=
  { wave := 0x0F, vol := 0x1F, freq := [(0x1B, 4), (0x1C, 8), (0x1D, 12), (0x1E, 16)] }

/-- P0, wavetable synthesizer. -/
def p0Wsg : SynthParams :=
  { nvoices := 3, waveLen := 32, nwaves := 16, phaseW := 32, phaseShift := 13, idxMask := 0x1F
    gain := 48, clampLo := -32768, clampHi := 32767, bias := 0x8000
    voices := #v[p0Voice0, p0Voice1, p0Voice2], sampleBits := 8
    sampleRate := 24000, audioRefillBands := 4, audioSlice := 44 }

/-- P0, frame orchestrator, input and power. -/
def p0Orch : OrchParams :=
  { cpuBudget := 50688, tickPeriodUs := 16500, coinHoldMs := 100, startDelayMs := 500, startHoldMs := 100
    tiltOn := 30, tiltOff := 15, tiltPitchSign := 1, tiltRollSign := 1
    silenceFrames := 3, idleFrames := 3, blFull := 255#8, blDim := 32#8
    modeOff := 0x0E00, state2Off := 0x0E01, state2Gate := BitVec.allOnes 256
    attractValue := 0x01#8, playValue := 0x03#8, playThreshold := 0x03#8
    graceTicks := 2, creditOffA := 0x0E6B, creditOffB := 0x0E6E }

/-- The reference profile P0 (R12). -/
def p0 : Params := { geo := p0Geo, spr := p0Spr, map := p0Map, wsg := p0Wsg, orch := p0Orch }

/-- A launch with the auxiliary ROM window: `HAS_AUX`, and an image that holds it (R12, 92_eei_decisions.md D55). -/
def withAux (c : Params) : Params :=
  { c with map := { c.map with hasAux := true, romImageSize := c.map.auxRomOff + c.map.auxSize } }

/-- The profile P0-MS (R12): P0 with the auxiliary ROM window and an image of 0x6000 bytes. -/
def p0ms : Params := withAux p0

end Machine

end Sys2Proof
end

