-- ==== Sys2Proof/Machine/AddressMap.lean ====
section
/-! DEFINITION. The CPU read map and write map (20_memory.md R71, R72): which class an address belongs to. The order of
the tests is the spec's (41_bus_controller.md R140, R150). -/

namespace Sys2Proof.Machine

/-- The read classes, the rows of R71. -/
inductive ReadClass
  | rom
  | blk
  | in0
  | in1
  | dsw
  | iox
  | aux
  | none
  deriving DecidableEq, Repr

/-- The write classes, the rows of R72. -/
inductive WriteClass
  | spra
  | sprp
  | ie
  | snd
  | blk
  | none
  deriving DecidableEq, Repr

/-- The read map, R71: the first row that matches the address, which is not masked (R74). -/
def readClass (c : Params) (a : Half) : ReadClass :=
  if a.toNat < c.map.romWin then .rom
  else if c.map.blockBase ≤ a.toNat ∧ a.toNat < c.map.blkRdEnd then .blk
  else if a = c.map.in0Addr then .in0
  else if a = c.map.in1Addr then .in1
  else if a = c.map.dswAddr then .dsw
  else if c.map.ioBase ≤ a.toNat ∧ a.toNat < c.map.ioEnd then .iox
  else if c.map.hasAux = true ∧ c.map.auxBase ≤ a.toNat ∧ a.toNat < c.map.auxBase + c.map.auxSize then .aux
  else .none

/-- The masked write address `m = a & WR_MASK` of R72. -/
def maskedAddr (c : Params) (a : Half) : Nat := (a &&& c.map.wrMask).toNat

/-- The write map, R72: the first row that matches the masked address. -/
def writeClass (c : Params) (a : Half) : WriteClass :=
  let m := maskedAddr c a
  if c.spraAddr ≤ m ∧ m < c.spraAddr + 2 * c.spr.nsprites then .spra
  else if c.sprpAddr ≤ m ∧ m < c.sprpAddr + 2 * c.spr.nsprites then .sprp
  else if m = c.map.ieAddr then .ie
  else if c.map.sndBase ≤ m ∧ m < c.map.sndBase + c.map.sndSize then .snd
  else if c.map.blockBase ≤ m ∧ m < c.map.blockBase + c.map.blockSize then .blk
  else .none

end Sys2Proof.Machine
end

