-- ==== Sys2Proof/Syntax.lean ====
section
/-! DEFINITION. The transactions of the block: one constructor per row of spec/opcode_table.json, in the table's order
(30_encoding.md R101 to R108). A field is an operand the word carries; `RD_IN0`, `RD_IN1` and `RD_DSW` have one address
each, so they carry none. -/

namespace Sys2Proof

inductive Instr
  /-- `RD_ROM`, 41_bus_controller.md R145. -/
  | rdRom (addr : Half)
  /-- `RD_BLK`, R141. -/
  | rdBlk (addr : Half)
  /-- `RD_IN0`, R142. -/
  | rdIn0
  /-- `RD_IN1`, R143. -/
  | rdIn1
  /-- `RD_DSW`, R144. -/
  | rdDsw
  /-- `RD_IOX`, R147. -/
  | rdIox (addr : Half)
  /-- `RD_AUX`, R146. -/
  | rdAux (addr : Half)
  /-- `RD_NONE`, R148. -/
  | rdNone (addr : Half)
  /-- `WR_SPRA`, R151. The address is the one on the bus, not yet masked. -/
  | wrSpra (addr : Half) (value : Byte)
  /-- `WR_SPRP`, R154. -/
  | wrSprp (addr : Half) (value : Byte)
  /-- `WR_IE`, R152. -/
  | wrIe (addr : Half) (value : Byte)
  /-- `WR_SND`, R153. -/
  | wrSnd (addr : Half) (value : Byte)
  /-- `WR_BLK`, R156. -/
  | wrBlk (addr : Half) (value : Byte)
  /-- `WR_NONE`, R155. -/
  | wrNone (addr : Half) (value : Byte)
  /-- `IN_PORT`, R162. -/
  | inPort (port : Half)
  /-- `OUT_VEC`, R160. -/
  | outVec (port : Half) (value : Byte)
  /-- `OUT_NONE`, R161. -/
  | outNone (port : Half) (value : Byte)
  /-- `IRD`, 45_frame_orchestrator.md R290. -/
  | ird (off : Half)
  /-- `IWR`, R291. -/
  | iwr (off : Half) (value : Byte)
  /-- `CRST`, R292. -/
  | crst
  /-- `RESET`, 70_reset_and_hazards.md R380. -/
  | reset
  /-- `TICK`, R262. -/
  | tick
  /-- `TAT_BUILD`, 42_tile_scrambler.md R170. -/
  | tatBuild
  /-- `SND_PARSE`, 44_wavetable_synth.md R234. -/
  | sndParse
  /-- `SND_RENDER`, R236. -/
  | sndRender (n : Half)
  /-- `SPR_PREP`, 43_sprite_compositor.md R192. -/
  | sprPrep
  /-- `BAND_RENDER`, R210. -/
  | bandRender (buffer band : Byte)
  /-- `FRAME_RENDER`, R213. -/
  | frameRender
  /-- `INPUT_SAMPLE`, 46_input_power.md R312. -/
  | inputSample
  /-- `POWER_EVAL`, R320. -/
  | powerEval
  /-- `VBLANK`, R275. -/
  | vblank
  /-- `ATTRACT`, R280. -/
  | attract
  /-- `AUDIO_REFILL`, R240. -/
  | audioRefill
  /-- `PAL_BUILD`, R174. -/
  | palBuild
  /-- `TILE_PASS`, R175. -/
  | tilePass (buffer band : Byte)
  /-- `SPRITE_PASS`, R200. -/
  | spritePass (buffer band : Byte)
  /-- `CPU_EXEC`, R270. -/
  | cpuExec
  /-- `PACE`, R284. -/
  | pace
  deriving DecidableEq, Repr

end Sys2Proof
end

