-- ==== Sys2Proof/WellFormed.lean ====
section
/-! DEFINITION. Which instructions have a word under a parameter record: the address of a bus access is of the class the
instruction names (30_encoding.md R102, R103), a port is or is not `VEC_PORT` (R105), an inspection offset lies in the
block (R104), and a band operand is a buffer and a band that exist (R107, R119). -/

namespace Sys2Proof

open Sys2Proof.Machine

/-- `buffer in {0, 1}, band < NBANDS` of R107. -/
def bandOperandOk (c : Params) (buffer band : Byte) : Bool :=
  buffer.toNat ≤ 1 && band.toNat < c.nbands

/-- The instruction is one the transaction word can carry under the record `c`. -/
def Instr.wellFormed (c : Params) : Instr → Bool
  | .rdRom a => readClass c a == .rom
  | .rdBlk a => readClass c a == .blk
  | .rdIn0 => readClass c c.map.in0Addr == .in0
  | .rdIn1 => readClass c c.map.in1Addr == .in1
  | .rdDsw => readClass c c.map.dswAddr == .dsw
  | .rdIox a => readClass c a == .iox
  | .rdAux a => readClass c a == .aux
  | .rdNone a => readClass c a == .none
  | .wrSpra a _ => writeClass c a == .spra
  | .wrSprp a _ => writeClass c a == .sprp
  | .wrIe a _ => writeClass c a == .ie
  | .wrSnd a _ => writeClass c a == .snd
  | .wrBlk a _ => writeClass c a == .blk
  | .wrNone a _ => writeClass c a == .none
  | .inPort _ => true
  | .outVec p _ => p.setWidth 8 == c.map.vecPort
  | .outNone p _ => p.setWidth 8 != c.map.vecPort
  | .ird off => off.toNat < c.map.blockSize
  | .iwr off _ => off.toNat < c.map.blockSize
  | .crst => true
  | .reset => true
  | .tick => true
  | .tatBuild => true
  | .sndParse => true
  | .sndRender _ => true
  | .sprPrep => true
  | .bandRender k b => bandOperandOk c k b
  | .frameRender => true
  | .inputSample => true
  | .powerEval => true
  | .vblank => true
  | .attract => true
  | .audioRefill => true
  | .palBuild => true
  | .tilePass k b => bandOperandOk c k b
  | .spritePass k b => bandOperandOk c k b
  | .cpuExec => true
  | .pace => true

end Sys2Proof
end

