-- ==== Sys2Proof/Decode.lean ====
section
/-! DEFINITION. The transaction word (30_encoding.md R100): its fields, the decoder, total on any 32-bit word (R108; `none`
is an illegal word of R119), and the encoder written from the same tables (R101 to R107). -/

namespace Sys2Proof

open Sys2Proof.Machine

/-- `T[31:28]`, the operation class (R100). -/
def wordCmd (t : Word) : BitVec 4 := t.extractLsb' 28 4

/-- `T[27:24]`, the sub-operation (R100). -/
def wordSub (t : Word) : BitVec 4 := t.extractLsb' 24 4

/-- `T[23:16]`, the byte written (R100). -/
def wordData (t : Word) : Byte := t.extractLsb' 16 8

/-- `T[15:0]`, the argument (R100). -/
def wordArg (t : Word) : Half := t.extractLsb' 0 16

/-- `T = {CMD, SUB, DATA, ARG}` (R100). -/
def packWord (cmd sub : BitVec 4) (data : Byte) (arg : Half) : Word := cmd ++ sub ++ data ++ arg

/-- `MRD` (R102): the read class of the address names the instruction. -/
def decodeRead (c : Params) (a : Half) : Instr :=
  match readClass c a with
  | .rom => .rdRom a
  | .blk => .rdBlk a
  | .in0 => .rdIn0
  | .in1 => .rdIn1
  | .dsw => .rdDsw
  | .iox => .rdIox a
  | .aux => .rdAux a
  | .none => .rdNone a

/-- `MWR` (R103): the write class of the masked address names the instruction. -/
def decodeWrite (c : Params) (a : Half) (v : Byte) : Instr :=
  match writeClass c a with
  | .spra => .wrSpra a v
  | .sprp => .wrSprp a v
  | .ie => .wrIe a v
  | .snd => .wrSnd a v
  | .blk => .wrBlk a v
  | .none => .wrNone a v

/-- The high byte of `ARG`: the buffer of a band operand (R100, R107). -/
def argBuffer (arg : Half) : Byte := arg.extractLsb' 8 8

/-- The low byte of `ARG`: the band of a band operand (R100, R107); the decoded part of a port (R105). -/
def argBand (arg : Half) : Byte := arg.extractLsb' 0 8

/-- An `INT` word with a `{buffer, band}` operand that exists (R107, R119). -/
def decodeBand (c : Params) (mk : Byte → Byte → Instr) (arg : Half) : Option Instr :=
  if bandOperandOk c (argBuffer arg) (argBand arg) then some (mk (argBuffer arg) (argBand arg)) else none

/-- An `INT` word whose `ARG` is 0 (R107, R119). -/
def decodeBare (i : Instr) (arg : Half) : Option Instr := if arg = 0#16 then some i else none

/-- `INT` (R107): `SUB` names the operation. -/
def decodeInternal (c : Params) (sub : BitVec 4) (arg : Half) : Option Instr :=
  match sub.toNat with
  | 0x0 => decodeBare .tatBuild arg
  | 0x1 => decodeBare .sndParse arg
  | 0x2 => some (.sndRender arg)
  | 0x3 => decodeBare .sprPrep arg
  | 0x4 => decodeBand c .bandRender arg
  | 0x5 => decodeBare .frameRender arg
  | 0x6 => decodeBare .inputSample arg
  | 0x7 => decodeBare .powerEval arg
  | 0x8 => decodeBare .vblank arg
  | 0x9 => decodeBare .attract arg
  | 0xA => decodeBare .audioRefill arg
  | 0xB => decodeBare .palBuild arg
  | 0xC => decodeBand c .tilePass arg
  | 0xD => decodeBand c .spritePass arg
  | 0xE => decodeBare .cpuExec arg
  | 0xF => decodeBare .pace arg
  | _ => none

/-- The decoder (R108): every 32-bit word is an instruction or illegal (R119). An unused field that is not zero makes the
word illegal. -/
def decode (c : Params) (t : Word) : Option Instr :=
  let sub := wordSub t
  let data := wordData t
  let arg := wordArg t
  match (wordCmd t).toNat with
  | 0x1 => if sub = 0#4 ∧ data = 0#8 then some (decodeRead c arg) else none
  | 0x2 => if sub = 0#4 then some (decodeWrite c arg data) else none
  | 0x3 => if sub = 0#4 ∧ data = 0#8 then some (.inPort arg) else none
  | 0x4 =>
    if sub = 0#4 then some (if arg.setWidth 8 = c.map.vecPort then .outVec arg data else .outNone arg data) else none
  | 0x5 => if sub = 0#4 ∧ data = 0#8 ∧ arg.toNat < c.map.blockSize then some (.ird arg) else none
  | 0x6 => if sub = 0#4 ∧ arg.toNat < c.map.blockSize then some (.iwr arg data) else none
  | 0x7 => if sub = 0#4 ∧ data = 0#8 ∧ arg = 0#16 then some .crst else none
  | 0x8 => if sub = 0#4 ∧ data = 0#8 ∧ arg = 0#16 then some .reset else none
  | 0x9 => if sub = 0#4 ∧ data = 0#8 ∧ arg = 0#16 then some .tick else none
  | 0xF => if data = 0#8 then decodeInternal c sub arg else none
  | _ => none

/-- `{CMD, 0, 0x00, ARG}` and the write forms of R102 to R105. -/
def busWord (cmd : BitVec 4) (data : Byte) (arg : Half) : Word := packWord cmd 0#4 data arg

/-- `{0xF, SUB, 0x00, ARG}` (R107). -/
def intWord (sub : BitVec 4) (arg : Half) : Word := packWord 0xF#4 sub 0#8 arg

/-- The word of an instruction, from R101 to R107 and the syntax table of R126. -/
def encode (c : Params) : Instr → Word
  | .rdRom a => busWord 0x1#4 0#8 a
  | .rdBlk a => busWord 0x1#4 0#8 a
  | .rdIn0 => busWord 0x1#4 0#8 c.map.in0Addr
  | .rdIn1 => busWord 0x1#4 0#8 c.map.in1Addr
  | .rdDsw => busWord 0x1#4 0#8 c.map.dswAddr
  | .rdIox a => busWord 0x1#4 0#8 a
  | .rdAux a => busWord 0x1#4 0#8 a
  | .rdNone a => busWord 0x1#4 0#8 a
  | .wrSpra a v => busWord 0x2#4 v a
  | .wrSprp a v => busWord 0x2#4 v a
  | .wrIe a v => busWord 0x2#4 v a
  | .wrSnd a v => busWord 0x2#4 v a
  | .wrBlk a v => busWord 0x2#4 v a
  | .wrNone a v => busWord 0x2#4 v a
  | .inPort p => busWord 0x3#4 0#8 p
  | .outVec p v => busWord 0x4#4 v p
  | .outNone p v => busWord 0x4#4 v p
  | .ird off => busWord 0x5#4 0#8 off
  | .iwr off v => busWord 0x6#4 v off
  | .crst => busWord 0x7#4 0#8 0#16
  | .reset => busWord 0x8#4 0#8 0#16
  | .tick => busWord 0x9#4 0#8 0#16
  | .tatBuild => intWord 0x0#4 0#16
  | .sndParse => intWord 0x1#4 0#16
  | .sndRender n => intWord 0x2#4 n
  | .sprPrep => intWord 0x3#4 0#16
  | .bandRender k b => intWord 0x4#4 (k ++ b)
  | .frameRender => intWord 0x5#4 0#16
  | .inputSample => intWord 0x6#4 0#16
  | .powerEval => intWord 0x7#4 0#16
  | .vblank => intWord 0x8#4 0#16
  | .attract => intWord 0x9#4 0#16
  | .audioRefill => intWord 0xA#4 0#16
  | .palBuild => intWord 0xB#4 0#16
  | .tilePass k b => intWord 0xC#4 (k ++ b)
  | .spritePass k b => intWord 0xD#4 (k ++ b)
  | .cpuExec => intWord 0xE#4 0#16
  | .pace => intWord 0xF#4 0#16

/-- The instruction the decoder reads from a word of `nbits` bits as spec/opcode_table.json numbers them. The table lists
`RD_AUX`, a row that exists only with `HAS_AUX`, so the table is read under P0-MS; every other row decodes alike under
P0 (log 13). -/
def decodeTableWord (nbits w : Nat) : Option Instr := decode Machine.p0ms (BitVec.ofNat 32 (w % 2 ^ nbits))

end Sys2Proof
end

