-- ==== Sys2Proof/Machine/Tables.lean ====
section
/-! DEFINITION. Sparse cells in canonical form, the load-time tables, and what is computed from the parameter record and
the tables alone: the tile address table (42_tile_scrambler.md R170, R171), the palette cache (R174), and the check of the
parameter record (00_scope.md R13). -/

namespace Sys2Proof.Machine

/-- Sparse contents: pairs of a place and a value, an unlisted place holding 0. -/
abbrev Cells (w : Nat) := List (Nat × BitVec w)

/-- The canonical form: places strictly rising, and no pair whose value is what an unlisted place holds. -/
abbrev Cells.wf {w : Nat} (m : Cells w) : Prop :=
  m.Pairwise (fun a b => a.1 < b.1) ∧ ∀ x ∈ m, x.2 ≠ 0#w

/-- The value at place `a`. -/
def Cells.get {w : Nat} (m : Cells w) (a : Nat) : BitVec w :=
  match m with
  | [] => 0#w
  | x :: rest => if x.1 = a then x.2 else Cells.get rest a

/-- The contents with `v` at place `a`, in canonical form. -/
def Cells.set {w : Nat} (m : Cells w) (a : Nat) (v : BitVec w) : Cells w :=
  match m with
  | [] => if v = 0#w then [] else [(a, v)]
  | x :: rest =>
    if a < x.1 then (if v = 0#w then x :: rest else (a, v) :: x :: rest)
    else if x.1 = a then (if v = 0#w then rest else (a, v) :: rest)
    else x :: Cells.set rest a v

/-- A load-time table (10_state.md R31, R41, R42): its shape, outermost dimension first, and its entries in row-major
order. A table that HOST has not supplied has the shape `[]`. -/
structure Table (w : Nat) where
  dims  : List Nat
  cells : Cells w
  deriving DecidableEq, Repr

/-- The number of entries of a shape. -/
def shapeSize (dims : List Nat) : Nat := dims.foldl (· * ·) 1

/-- The table is present with the given shape (R125, 70_reset_and_hazards.md R383). -/
def Table.hasShape {w : Nat} (t : Table w) (dims : List Nat) : Bool :=
  t.dims == dims && t.cells.all (fun x => x.1 < shapeSize dims)

/-- The entry at a row-major place. -/
def Table.get {w : Nat} (t : Table w) (i : Nat) : BitVec w := t.cells.get i

/-- The wavetable (10_state.md R41): its shape and its samples in row-major order, an unlisted place holding 0. -/
structure SampleTable where
  dims  : List Nat
  cells : List (Nat × Int)
  deriving DecidableEq, Repr

/-- The table is present with the given shape. -/
def SampleTable.hasShape (t : SampleTable) (dims : List Nat) : Bool :=
  t.dims == dims && t.cells.all (fun x => x.1 < shapeSize dims)

/-- The sample at a row-major place. -/
def SampleTable.get (t : SampleTable) (i : Nat) : Int := ((t.cells.find? (·.1 == i)).map (·.2)).getD 0

/-- The load-time tables of 30_encoding.md R125. -/
structure LoadTables where
  /-- ROM image, R31. -/
  rom : Table 8
  /-- Tile graphics `TG[t][r]`, R42. -/
  tg  : Table 16
  /-- Sprite graphics `SG[f][k][r]`, R42. -/
  sg  : Table 32
  /-- Palette `PAL[g][e]`, R42. -/
  pal : Table 16
  /-- Wavetable `WT[w][k]`, R41. -/
  wt  : SampleTable
  deriving DecidableEq, Repr

/-- The shape of the ROM image, R31. -/
def romShape (c : Params) : List Nat := [c.map.romImageSize]
/-- The shape of `TG`, R42. -/
def tgShape (c : Params) : List Nat := [c.geo.ntiles, c.geo.tileH]
/-- The shape of `SG`, R42. -/
def sgShape (c : Params) : List Nat := [c.spr.nflip, c.spr.sprCodeLimit, c.spr.sprH]
/-- The shape of `PAL`, R42. -/
def palShape (c : Params) : List Nat := [c.ngroups, c.spr.groupLen]
/-- The shape of `WT`, R41. -/
def wtShape (c : Params) : List Nat := [c.wsg.nwaves, c.wsg.waveLen]

/-- Every load-time table is present with its shape (R383). -/
def LoadTables.loaded (c : Params) (t : LoadTables) : Bool :=
  t.rom.hasShape (romShape c) && t.tg.hasShape (tgShape c) && t.sg.hasShape (sgShape c) &&
    t.pal.hasShape (palShape c) && t.wt.hasShape (wtShape c)

/-- The tables of a launch in which HOST loads zeros everywhere, with the shapes of the record (log 2). -/
def LoadTables.blank (c : Params) : LoadTables :=
  { rom := ⟨romShape c, []⟩, tg := ⟨tgShape c, []⟩, sg := ⟨sgShape c, []⟩, pal := ⟨palShape c, []⟩, wt := ⟨wtShape c, []⟩ }

/-- `rom[i]`, R31. -/
def LoadTables.romByte (t : LoadTables) (i : Nat) : Byte := t.rom.get i

/-- `TG[t][r]`, R42; a tile the table does not have is a free value (DESIGN CHOICE, log 33). -/
def LoadTables.tileRow (c : Params) (t : LoadTables) (tile row : Nat) : Half :=
  if tile < c.geo.ntiles then t.tg.get (tile * c.geo.tileH + row) else Config.noTileRow tile row

/-- `SG[f][k][r]`, R42; a flip variant the table does not have is a free value (DESIGN CHOICE, log 33). -/
def LoadTables.spriteRow (c : Params) (t : LoadTables) (flip code row : Nat) : Word :=
  if flip < c.spr.nflip then t.sg.get ((flip * c.spr.sprCodeLimit + code) * c.spr.sprH + row)
  else Config.noSpriteRow flip code row

/-- `PAL[g][e]`, R42. -/
def LoadTables.palEntry (c : Params) (t : LoadTables) (g e : Nat) : Half := t.pal.get (g * c.spr.groupLen + e)

/-- `WT[w][k]`, R41: a `SAMPLE_T` value, that is, a signed integer of `sampleBits` bits (00_scope.md R12). -/
def LoadTables.sampleAt (c : Params) (t : LoadTables) (w k : Nat) : Int :=
  (BitVec.ofInt c.wsg.sampleBits (t.wt.get (w * c.wsg.waveLen + k))).toInt

/-- The scramble function `tas(r, c)` of R171, on unbounded integers. -/
def tas (g : GeoParams) (r c : Nat) : Int :=
  if r < g.topRows then g.tasTopBase + g.tasStride * r - c
  else if r ≥ g.nrows - g.botRows then g.tasBotBase + g.tasStride * (r - (g.nrows - g.botRows) : Nat) - c
  else g.tasMainBase + (r - g.topRows : Nat) - g.tasStride * c

/-- The tile address table `TAT[0 .. NROWS-1][0 .. NCOLS-1]` (10_state.md R44) as R170 builds it. -/
def tatTable (g : GeoParams) : List (List Nat) :=
  (List.range g.nrows).map fun r => (List.range g.ncols).map fun c => (tas g r c).toNat

/-- `XFORM` of 10_state.md R43. -/
def palTransform (x : PalXform) (v : Half) : Half :=
  match x with
  | .swap16 => (v.extractLsb' 0 8 ++ v.extractLsb' 8 8 : BitVec (8 + 8))
  | .identity => v

/-- The palette cache `PALX[g][e] = XFORM(PAL[g][e])` (R43) as R174 builds it. -/
def palxTable (c : Params) (t : LoadTables) : List (List Half) :=
  (List.range c.ngroups).map fun g =>
    (List.range c.spr.groupLen).map fun e => palTransform c.spr.palXform (t.palEntry c g e)

/-- Every value of the tile address table lies in `[0, CRAM_OFF - VRAM_OFF)` (R13). -/
def tasInRange (g : GeoParams) : Bool :=
  (List.range g.nrows).all fun r => (List.range g.ncols).all fun c =>
    0 ≤ tas g r c && tas g r c < (g.cramOff : Int) - g.vramOff

/-- The constraints of R13 on geometry and block. -/
def geoOk (c : Params) : Bool :=
  c.geo.tileH == c.geo.bandLines && c.geo.topRows + c.geo.botRows ≤ c.geo.nrows && tasInRange c.geo &&
    (c.geo.cramOff : Int) + (c.geo.cramOff - c.geo.vramOff) ≤ c.map.blockSize &&
    c.map.blockBase + c.map.blockSize ≤ 0x8000 && 1 ≤ c.geo.bandCount && c.geo.bandFirst + c.geo.bandCount ≤ c.nbands

/-- The constraints of R13 on sprites, with `SPR_W = 16` of 43_sprite_compositor.md R190. -/
def sprOk (c : Params) : Bool :=
  c.spr.spraOff + 2 * c.spr.nsprites ≤ c.map.blockSize && c.spr.sprpOff + 2 * c.spr.nsprites ≤ c.map.blockSize &&
    c.spr.sprW == 16

/-- The constraints of R13 on the synthesizer, with those of 44_wavetable_synth.md R232: `NVOICES = 3`,
`WAVE_LEN = 32 = IDX_MASK + 1`, `PHASE_W >= PHASE_SHIFT + 5 = 18`. -/
def wsgOk (c : Params) : Bool :=
  c.wsg.nwaves == 16 && 1 ≤ c.wsg.audioRefillBands && c.wsg.nvoices == 3 && c.wsg.waveLen == 32 &&
    c.wsg.idxMask + 1 == 32 && c.wsg.phaseShift + 5 == 18 && 18 ≤ c.wsg.phaseW

/-- The constraints of R13 on the tilt thresholds and on the ROM image size, with `ADDR_W = 16` of 20_memory.md R70. -/
def restOk (c : Params) : Bool :=
  c.map.addrW == 16 && c.orch.tiltOff < c.orch.tiltOn && 0 ≤ c.orch.tiltOff && c.map.romWin ≤ c.map.romImageSize &&
    (!c.map.hasAux || c.map.auxRomOff + c.map.auxSize ≤ c.map.romImageSize)

/-- The parameter record obeys R13 (log 15). -/
def paramsOk (c : Params) : Bool := geoOk c && sprOk c && wsgOk c && restOk c

end Sys2Proof.Machine
end

