-- ==== Sys2Proof/Machine/State.lean ====
section
/-! DEFINITION. Everything the spec gives the machine (10_state.md), grouped by the unit that owns it, and beside it the
model's own fields: what the outside world presents and supplies, and what the run has put out. Plain data throughout. -/

namespace Sys2Proof.Machine

/-- No operation of the block traps (60_exceptions.md R340), so there is no fault: nobody raises one, which is safe. -/
inductive Fault
  deriving DecidableEq, Repr

/-- Why a step has no meaning. What the spec calls a refusal (R346) is not one of these: it is a step that changes no
state of the block, and its code is a `RefusalCode`. -/
inductive Refusal
  /-- Raised by an arm of `exec` whose instruction has no meaning yet. Safe: the run stops. -/
  | notModelled (mnemonic : String)
  deriving DecidableEq, Repr

/-- The seven refusal codes of R341. -/
inductive RefusalCode
  | illegalWord
  | badPhase
  | notLoaded
  | notBuilt
  | bufferInflight
  | faulted
  | badConfig
  deriving DecidableEq, Repr

/-- The subsystems of 10_state.md R63 and 70_reset_and_hazards.md R382. -/
inductive Subsystem
  | mio
  | spc
  | wsg
  | orch
  deriving DecidableEq, Repr

/-- The statuses of R341. -/
inductive Status
  | ok
  | audioDropped (n : Nat)
  | cutsceneFailed
  | initFail (s : Subsystem)
  | refused (code : RefusalCode)
  deriving DecidableEq, Repr

/-- The agents that present transactions (00_scope.md R10, 60_exceptions.md R360). -/
inductive Agent
  | cpu
  | host
  | orch
  deriving DecidableEq, Repr

/-- The orchestrator's phases, 10_state.md R60. -/
inductive Phase
  | reset
  | initFailed
  | tickStart
  | cpuExec
  | parse
  | sprPrep
  | bandRender
  | bandWait
  | bandSend
  | audioRefill
  | frameWait
  | input
  | power
  | vblank
  | attract
  | cutscene
  | pace
  deriving DecidableEq, Repr

/-- Who owns a band buffer, R46. -/
inductive Owner
  | free
  | render
  | inflight
  deriving DecidableEq, Repr

/-- The coin/start sequencer's states, R49. -/
inductive CoinState
  | idle
  | coinAsserted
  | coinReleased
  | startAsserted
  | awaitRelease
  deriving DecidableEq, Repr

/-- The performance mode, R51. -/
inductive Perf
  | high
  | low
  deriving DecidableEq, Repr

/-- The waveform of a voice: `SILENT` or a waveform number, R40. -/
inductive Wave
  | silent
  | wave (n : BitVec 4)
  deriving DecidableEq, Repr

/-- A voice, R40. `phase` is the accumulator's value, below `2 ^ PHASE_W`. -/
structure Voice where
  phase : Nat
  freq  : BitVec 20
  wave  : Wave
  vol   : BitVec 4
  deriving DecidableEq, Repr

/-- A sprite descriptor, R45. `x` and `y` are signed 16-bit coordinates, read with `toInt`. -/
structure Sprite where
  x     : Half
  y     : Half
  code  : BitVec 6
  color : Byte
  flip  : BitVec 2
  deriving DecidableEq, Repr

/-- A band buffer, R46: lines of pixel words. -/
abbrev Band := List (List Half)

/-- The block's bytes: `(offset, byte)` pairs, an unlisted offset reading 0, which is its reset value at P0 (R65). -/
abbrev Memory := List Host.Cell

/-- The canonical form of a memory. -/
abbrev Memory.wf (m : Memory) : Prop := Cells.wf (w := 8) m

/-- State of the memory and I/O controller: R32 to R37. IE is a bit of `blk` (R34). `snd` has `SND_SIZE` registers. -/
structure Mio where
  blk    : Memory
  snd    : List Byte
  irqvec : Byte
  in0    : Byte
  in1    : Byte
  deriving DecidableEq, Repr

/-- State of the renderer: R43 to R47. -/
structure Video where
  tat      : Option (List (List Nat))
  palx     : Option (List (List Half))
  asl      : List Sprite
  buf0     : Band
  buf1     : Band
  owner0   : Owner
  owner1   : Owner
  dispBusy : Bool
  deriving DecidableEq, Repr

/-- The tilt latches, R48. -/
structure Tilt where
  up    : Bool
  down  : Bool
  left  : Bool
  right : Bool
  deriving DecidableEq, Repr

/-- The coin/start sequencer, R49: `cs` and `cs_t`. -/
structure CoinSeq where
  cs  : CoinState
  csT : Word
  deriving DecidableEq, Repr

/-- Power state, R51. -/
structure Power where
  silentCnt : Nat
  ampOn     : Bool
  mutePrev  : Bool
  perf      : Perf
  idleCnt   : Nat
  backlight : Byte
  deriving DecidableEq, Repr

/-- Attract/game-over detector, R52. -/
structure Detector where
  graceCnt : Nat
  prevMode : Byte
  played   : Bool
  deriving DecidableEq, Repr

/-- Orchestrator state, R60 to R63. `fault = none` is `NONE`. `hostOp` is the model's own: HOST issued the operation in
progress as an `INT` word, so ORCH returns to `TICK_START` after it (log 12). `cutDue` is the model's own too: the detector
has fired, and the cutscene with its credit reset is not over (log 30). -/
structure Orch where
  phase  : Phase
  bandJ  : Nat
  tickT0 : BitVec 64
  fault  : Option Subsystem
  hostOp : Bool
  cutDue : Bool
  deriving DecidableEq, Repr

/-- What CUT answers while `CUT.play()` runs (30_encoding.md R123). -/
inductive CutAnswer
  | playing
  | ok
  | fail
  deriving DecidableEq, Repr

/-- The levels the platform supplies (R121 to R124, 70_reset_and_hazards.md R382); not state of the block (R50). -/
structure Platform where
  /-- Button mask `HB`, R113. -/
  hb       : Word
  pitch    : Int
  roll     : Int
  nowMs    : Word
  nowUs    : BitVec 64
  /-- `AUD.get_mute()`. -/
  mute     : Bool
  /-- `AUD.transmit` answers `ACCEPTED`. -/
  audRoom  : Bool
  /-- DISP has completed its most recent transfer. -/
  dispDone : Bool
  cut      : CutAnswer
  /-- `ALLOC_OK(s)`, R382. -/
  allocMio  : Bool
  allocSpc  : Bool
  allocWsg  : Bool
  allocOrch : Bool
  deriving DecidableEq, Repr

/-- What the outside world does next (log 6). -/
inductive Input
  /-- HOST presents a transaction word. -/
  | host (w : Word)
  /-- The CPU presents a transaction word, a callback of `CPU.execute` (R120). -/
  | cpu (w : Word)
  /-- ORCH's turn: its next phase transition; in `CPU_EXEC`, `CPU.execute` has returned. -/
  | turn
  /-- The platform's levels change. -/
  | levels (p : Platform)
  deriving DecidableEq, Repr

/-- What a transaction returns beside its status (30_encoding.md R101). -/
inductive Reply
  | none
  | byte (b : Byte)
  | samples (l : List Half)
  deriving DecidableEq, Repr

/-- An observable output (45_frame_orchestrator.md R263): an interface call of R120 to R124, or a value returned. -/
inductive Obs
  | cpuReset
  | cpuExecute (budget : Nat)
  | cpuInterrupt (vector : Byte)
  | dispFill (color : Half)
  | dispSetWindow (x y w h : Nat)
  /-- `DISP.write_preswapped` when the flag is set, else `DISP.write` (43_sprite_compositor.md R214). -/
  | dispWrite (preswapped : Bool) (pixels : List Half) (count : Nat)
  | dispWait
  | dispSetBacklight (level : Byte)
  | audTransmit (samples : List Half) (n : Nat) (accepted : Bool)
  | audSetPower (on : Bool)
  | audGetMute
  | hostSetPerf (m : Perf)
  | hostSleepUntil (t : Nat)
  | cutPlay
  /-- A byte returned to the agent that read it. -/
  | byteTo (a : Agent) (b : Byte)
  /-- Samples returned to HOST by `SND_RENDER`. -/
  | samplesTo (l : List Half)
  deriving DecidableEq, Repr

/-- The model's own fields (logs 6, 9, 10, 14): the outside world's side and the run's outputs. -/
structure Env where
  inputs   : List Input
  platform : Platform
  agent    : Agent
  status   : Status
  /-- `ST` of R262: the statuses raised by the tick or HOST operation in progress. -/
  st       : List Status
  reply    : Reply
  trace    : List Obs
  /-- The sticky refusal mark of R346. -/
  mark     : Bool
  /-- How many draws the free values have had. -/
  draws    : Nat
  deriving DecidableEq, Repr

/-- The machine. -/
structure State where
  cfg    : Params
  load   : LoadTables
  mio    : Mio
  voices : Vector Voice 3
  video  : Video
  tilt   : Tilt
  coin   : CoinSeq
  power  : Power
  det    : Detector
  orch   : Orch
  env    : Env
  deriving DecidableEq, Repr

/-- R65: `blk` and `snd` zero (`RESET_FILL = ZERO`), `irqvec` 0x00, `in0` and `in1` 0xFF. -/
def Mio.reset (c : Params) : Mio :=
  { blk := [], snd := List.replicate c.map.sndSize 0#8, irqvec := 0x00#8, in0 := 0xFF#8, in1 := 0xFF#8 }

/-- R65: phase 0, frequency 0, `SILENT`, volume 0. -/
def Voice.reset : Voice := { phase := 0, freq := 0#20, wave := .silent, vol := 0#4 }

/-- R65: every latch clear. -/
def Tilt.reset : Tilt := { up := false, down := false, left := false, right := false }

/-- R65: `Idle`, 0. -/
def CoinSeq.reset : CoinSeq := { cs := .idle, csT := 0#32 }

/-- R65: counters 0, amplifier on, mute clear, `HIGH`, `BL_FULL`. -/
def Power.reset (c : Params) : Power :=
  { silentCnt := 0, ampOn := true, mutePrev := false, perf := .high, idleCnt := 0, backlight := c.orch.blFull }

/-- R65: 0, 0x00, false. -/
def Detector.reset : Detector := { graceCnt := 0, prevMode := 0x00#8, played := false }

/-- A band buffer of `BLACK` words (43_sprite_compositor.md R210). -/
def blackBand (c : Params) : Band := List.replicate c.geo.bandLines (List.replicate c.width c.spr.black)

/-- The boot calls of 70_reset_and_hazards.md R384. -/
def bootCalls (c : Params) : List Obs :=
  [.dispFill c.spr.black, .dispSetBacklight c.orch.blFull, .audSetPower true, .cpuReset]

/-- Idle inputs and prompt answers: the conventions of 95_test_vectors.md (log 24). -/
def Platform.idle : Platform :=
  { hb := 0#32, pitch := 0, roll := 0, nowMs := 0#32, nowUs := 0#64, mute := false, audRoom := true, dispDone := true
    cut := .ok, allocMio := true, allocSpc := true, allocWsg := true, allocOrch := true }

/-- The machine at power-up under P0 (70_reset_and_hazards.md R381): phase `RESET`, before the first `RESET`, with the values of
10_state.md R65, no table built, nothing called, and blank load-time tables (logs 1, 2). The band buffers and `tick_t0`,
which R65 leaves unspecified, hold the values of logs 7 and 8. -/
def State.reset : State :=
  { cfg := p0
    load := LoadTables.blank p0
    mio := Mio.reset p0
    voices := Vector.replicate 3 Voice.reset
    video :=
      { tat := none, palx := none, asl := []
        buf0 := blackBand p0, buf1 := blackBand p0, owner0 := .free, owner1 := .free, dispBusy := false }
    tilt := Tilt.reset
    coin := CoinSeq.reset
    power := Power.reset p0
    det := Detector.reset
    orch := { phase := .reset, bandJ := 0, tickT0 := 0#64, fault := none, hostOp := false, cutDue := false }
    env :=
      { inputs := [], platform := Platform.idle, agent := .host, status := .ok, st := [], reply := .none
        trace := [], mark := false, draws := 0 } }

end Sys2Proof.Machine
end

