-- ==== Sys2Proof/Machine/Ops.lean ====
section
/-! DEFINITION. The named operations every meaning is built from: the block's bytes, the sound registers, the band
buffers, interface calls, statuses, and the two ways a transaction can end (60_exceptions.md R341, R346). The one event
the block causes on the CPU, the vblank interrupt, is `deliverInterrupt`; the block takes no exception of its own and
saves nothing for one (R340, R352), so there is no return from one here. -/

namespace Sys2Proof.Machine

/-- One byte of `blk`. -/
def Memory.load (m : Memory) (off : Nat) : Byte := Cells.get (w := 8) m off

/-- `blk[off] <- v`, in canonical form. -/
def Memory.store (m : Memory) (off : Nat) (v : Byte) : Memory := Cells.set (w := 8) m off v

/-- `blk[off]` (10_state.md R32). -/
def State.byteAt (s : State) (off : Nat) : Byte := s.mio.blk.load off

/-- `blk[off] <- v`. -/
def State.setByte (s : State) (off : Nat) (v : Byte) : State :=
  { s with mio := { s.mio with blk := s.mio.blk.store off v } }

/-- `snd[i]` (10_state.md R35). -/
def State.sndAt (s : State) (i : Nat) : Byte := s.mio.snd.getD i 0#8

/-- `snd[i] <- v`. -/
def State.setSnd (s : State) (i : Nat) (v : Byte) : State :=
  { s with mio := { s.mio with snd := s.mio.snd.set i v } }

/-- `BUF[k]` (10_state.md R46). -/
def State.band (s : State) (k : Nat) : Band := if k = 0 then s.video.buf0 else s.video.buf1

/-- `BUF[k] <- b`. -/
def State.setBand (s : State) (k : Nat) (b : Band) : State :=
  if k = 0 then { s with video := { s.video with buf0 := b } } else { s with video := { s.video with buf1 := b } }

/-- `owner[k]` (R46). -/
def State.owner (s : State) (k : Nat) : Owner := if k = 0 then s.video.owner0 else s.video.owner1

/-- `owner[k] <- o`. -/
def State.setOwner (s : State) (k : Nat) (o : Owner) : State :=
  if k = 0 then { s with video := { s.video with owner0 := o } } else { s with video := { s.video with owner1 := o } }

/-- A band buffer of words that no rule gives (R65, U6). -/
def drawnBand (c : Params) (n k : Nat) : Band :=
  (List.range c.geo.bandLines).map fun l => (List.range c.width).map fun x => Config.drawPixel n k l x

/-- Free values have been drawn. -/
def State.drew (s : State) : State := { s with env := { s.env with draws := s.env.draws + 1 } }

/-- `disp_busy <- b` (R47). -/
def State.setBusy (s : State) (b : Bool) : State := { s with video := { s.video with dispBusy := b } }

/-- `phase <- p` (00_scope.md R16, 10_state.md R60). -/
def State.setPhase (s : State) (p : Phase) : State := { s with orch := { s.orch with phase := p } }

/-- `band_j <- j` (R61). -/
def State.setBandJ (s : State) (j : Nat) : State := { s with orch := { s.orch with bandJ := j } }

/-- Who started the operation in progress (log 12). -/
def State.setHostOp (s : State) (b : Bool) : State := { s with orch := { s.orch with hostOp := b } }

/-- The detector's answer, until its cutscene and credit reset are done (log 30). -/
def State.setCutDue (s : State) (b : Bool) : State := { s with orch := { s.orch with cutDue := b } }

/-- The agent that presents the current transaction (R360). -/
def State.setAgent (s : State) (a : Agent) : State := { s with env := { s.env with agent := a } }

/-- What the outside world does next (log 6). -/
def State.setInputs (s : State) (l : List Input) : State := { s with env := { s.env with inputs := l } }

/-- An interface call, or a value returned: the next observable output (45_frame_orchestrator.md R263). -/
def State.emit (s : State) (o : Obs) : State := { s with env := { s.env with trace := s.env.trace ++ [o] } }

/-- `raise <Status>` (R16): the status joins the list `ST` of R262. -/
def State.raise (s : State) (st : Status) : State := { s with env := { s.env with st := s.env.st ++ [st] } }

/-- The transaction ends with status `OK` and returns nothing else (R341). -/
def State.done (s : State) : State := { s with env := { s.env with status := .ok, reply := .none } }

/-- The transaction ends with status `OK` and returns a byte to the agent that presented it (30_encoding.md R101). -/
def State.answer (s : State) (b : Byte) : State :=
  { s with env := { s.env with status := .ok, reply := .byte b, trace := s.env.trace ++ [.byteTo s.env.agent b] } }

/-- An operation with a status list begins: `ST <- []` (R262). -/
def State.begin (s : State) : State := { s with env := { s.env with st := [], reply := .none } }

/-- Such an operation ends: its status is the last one raised, or `OK` (R341, log 14). -/
def State.finish (s : State) : State := { s with env := { s.env with status := s.env.st.getLastD .ok } }

/-- The operation in progress is over and was HOST's or the tick's: ORCH is back in `TICK_START`. -/
def State.backToTickStart (s : State) : State := ((s.setPhase .tickStart).setHostOp false).finish

/-- The numeric code of a refusal (R341). -/
def RefusalCode.code : RefusalCode → Byte
  | .illegalWord => 0x10#8
  | .badPhase => 0x11#8
  | .notLoaded => 0x12#8
  | .notBuilt => 0x13#8
  | .bufferInflight => 0x14#8
  | .faulted => 0x15#8
  | .badConfig => 0x16#8

/-- The numeric code of a status (R341). -/
def Status.code : Status → Byte
  | .ok => 0x00#8
  | .audioDropped _ => 0x01#8
  | .cutsceneFailed => 0x02#8
  | .initFail _ => 0x03#8
  | .refused code => code.code

/-- A refused transaction (R346): no state of the block changes, no interface call is made, the status is returned and the
sticky mark is set. -/
def State.refuse (s : State) (code : RefusalCode) : State :=
  { s with env := { s.env with status := .refused code, reply := .none, mark := true } }

/-- `Call CPU.interrupt(irqvec)` (R350): the vector latch is read and kept, and no state is saved (R352). -/
def State.deliverInterrupt (s : State) : State := s.emit (.cpuInterrupt s.mio.irqvec)

/-- The rows of the access table of R360. -/
inductive CmdClass
  | bus
  | inspect
  | crst
  | reset
  | tick
  | int
  deriving DecidableEq, Repr

/-- `target` of R284. -/
def State.paceTarget (s : State) : Nat := s.orch.tickT0.toNat + s.cfg.orch.tickPeriodUs

/-- `now_us < target` (R284, R285). -/
def State.early (s : State) : Bool := s.env.platform.nowUs.toNat < s.paceTarget

/-- ORCH is at a phase boundary outside `CPU_EXEC` (20_memory.md R82): it runs, the work of the phase is done and the operation
of the phase is not waiting for another agent (log 18). A wait for DISP ends when the transfer is done, pacing when the
target is reached; `CUTSCENE` is left when the cutscene and the credit reset are done (45_frame_orchestrator.md R261). -/
def State.atBoundary (s : State) : Bool :=
  match s.orch.phase with
  | .reset => false
  | .initFailed => false
  | .cpuExec => false
  | .bandWait => s.env.platform.dispDone
  | .frameWait => s.env.platform.dispDone
  | .cutscene => !s.orch.cutDue
  | .pace => !s.early
  | _ => true

/-- The phases within a tick (45_frame_orchestrator.md R261). -/
def tickPhase : Phase → Bool
  | .reset => false
  | .initFailed => false
  | .tickStart => false
  | _ => true

/-- The access table, R360: is this row open to this agent now? -/
def allowed (c : CmdClass) (a : Agent) (s : State) : Bool :=
  match c, a with
  | .bus, .cpu => s.orch.phase == .cpuExec
  | .inspect, .host => s.atBoundary
  | .crst, .host => s.atBoundary
  | .crst, .orch => s.orch.phase == .attract || s.orch.phase == .cutscene
  | .reset, .host => true
  | .tick, .host => s.orch.phase == .tickStart
  | .tick, .orch => s.orch.phase == .tickStart
  | .int, .host => s.orch.phase == .tickStart
  | .int, .orch => tickPhase s.orch.phase
  | _, _ => false

/-- The first refusal that applies, in the order of R348: `FAULTED`, `BAD_PHASE`, then the conditions of the operation in
the order its caller lists them. -/
def refusal (c : CmdClass) (more : List (Bool × RefusalCode)) (s : State) : Option RefusalCode :=
  if s.orch.fault.isSome && c != .reset then some .faulted
  else if !allowed c s.env.agent s then some .badPhase
  else (more.find? (·.1)).map (·.2)

/-- A transaction of row `c`: it is refused with the first condition that applies, or it has its effect. -/
def transact (c : CmdClass) (more : List (Bool × RefusalCode)) (effect : State → State) (s : State) :
    Host.Outcome State Fault Refusal :=
  match refusal c more s with
  | some code => .next (s.refuse code)
  | none => .next (effect s)

/-- The transaction is HOST's own (R360); otherwise ORCH performs it within a tick. -/
def State.byHost (s : State) : Bool := s.env.agent == .host

/-- HOST's operation starts with an empty status list; one of ORCH's within a tick adds to the tick's (R262). -/
def State.beginOp (s : State) : State := if s.byHost then s.begin else s

/-- HOST's operation returns its status at its end; one of ORCH's within a tick returns to the tick. -/
def State.finishOp (s : State) : State := if s.byHost then s.finish else s

/-- An operation that goes on in later phase transitions begins (log 5); if it is HOST's, ORCH returns to `TICK_START` after
it (log 12). -/
def State.beginLong (s : State) : State := if s.byHost then s.begin.setHostOp true else s

/-- An internal operation that is complete in one step. -/
def internal (more : List (Bool × RefusalCode)) (effect : State → State) (s : State) :
    Host.Outcome State Fault Refusal :=
  transact .int more (fun s => (effect s.beginOp).finishOp) s

end Sys2Proof.Machine
end

