-- ==== Sys2Proof/Machine/Operands.lean ====
section
/-! DEFINITION. The operand forms: offsets of bus accesses, the sound fields (30_encoding.md R111), the sprite attribute
fields (43_sprite_compositor.md R191), packed pixels (R114), colour indices (R116), and host buttons (R113). -/

namespace Sys2Proof.Machine

/-- `m - BLOCK_BASE` for the masked address `m` of a write (20_memory.md R72). -/
def writeOffset (c : Params) (a : Half) : Nat := maskedAddr c a - c.map.blockBase

/-- `a - BLOCK_BASE` for the address of a read of the block (R71). -/
def readOffset (c : Params) (a : Half) : Nat := a.toNat - c.map.blockBase

/-- `m - SND_BASE` (R72). -/
def sndIndex (c : Params) (a : Half) : Nat := maskedAddr c a - c.map.sndBase

/-- `a - AUX_BASE + AUX_ROM_OFF` (41_bus_controller.md R146). -/
def auxOffset (c : Params) (a : Half) : Nat := a.toNat - c.map.auxBase + c.map.auxRomOff

/-- `IE_ADDR - BLOCK_BASE` (10_state.md R34). -/
def ieOffset (c : Params) : Nat := c.map.ieAddr - c.map.blockBase

/-- `n(i) = snd[i] & 0x0F` (R111); a register the file does not have is a free value (DESIGN CHOICE, log 34). -/
def State.nibble (s : State) (i : Nat) : BitVec 4 :=
  if i < s.cfg.map.sndSize then (s.sndAt i).extractLsb' 0 4 else Config.noNibble i

/-- The sound registers of voice `v`. -/
def State.voiceRegs (s : State) (v : Fin 3) : VoiceRegs := s.cfg.wsg.voices[v]

/-- `vol(v)` (R111). -/
def State.volField (s : State) (v : Fin 3) : BitVec 4 := s.nibble (s.voiceRegs v).vol

/-- `wsel(v)` (R111). -/
def State.waveField (s : State) (v : Fin 3) : BitVec 4 := s.nibble (s.voiceRegs v).wave

/-- `freq(v)` (R111): each frequency nibble at its bit. -/
def State.freqField (s : State) (v : Fin 3) : BitVec 20 :=
  (s.voiceRegs v).freq.foldl (fun acc x => acc ||| ((s.nibble x.1).setWidth 20 <<< x.2)) 0#20

/-- `row[2*p+1 : 2*p]` (R114): pixel `p` of a packed row, 0 the leftmost. -/
def pixelOf {w : Nat} (row : BitVec w) (p : Nat) : BitVec 2 := row.extractLsb' (2 * p) 2

/-- `TG[t][r][2*px+1 : 2*px]` (R114) of a tile row, which holds 8 pixels; another is a free value (DESIGN CHOICE, log 32). -/
def tileRowPixel (row : Half) (px : Nat) : BitVec 2 := if px < 8 then pixelOf row px else Config.noTilePixel row px

/-- The colour index of a colour byte (R116). -/
def colorIndex (c : Params) (b : Byte) : Byte := b &&& c.spr.colorMask

/-- `PALX[g][e]` of a built palette cache (10_state.md R43); an entry that a group of `GROUP_LEN` entries does not have is a free
value (DESIGN CHOICE, log 31). -/
def State.palxAt (s : State) (g e : Nat) : Half :=
  if e < s.cfg.spr.groupLen then ((s.video.palx.getD []).getD g []).getD e 0#16 else Config.noColour g e

/-- `TAT[r][c]` of a built tile address table (R44). -/
def State.tatAt (s : State) (r c : Nat) : Nat := ((s.video.tat.getD []).getD r []).getD c 0

/-- `x(i)` (R191), on integers. -/
def State.slotX (s : State) (i : Nat) : Int := s.cfg.spr.sprXBias - (s.byteAt (s.cfg.spr.sprpOff + 2 * i)).toNat

/-- `y(i)` (R191), on integers. -/
def State.slotY (s : State) (i : Nat) : Int := s.cfg.spr.sprYBias - (s.byteAt (s.cfg.spr.sprpOff + 2 * i + 1)).toNat

/-- A coordinate stored as an `i16` (10_state.md R45); outside the range a free value (log 26). -/
def toI16 (v : Int) : Half := if -32768 ≤ v ∧ v ≤ 32767 then BitVec.ofInt 16 v else Config.wideCoord v

/-- The descriptor of slot `i` (R191, R115). -/
def State.slot (s : State) (i : Nat) : Sprite :=
  let code := s.byteAt (s.cfg.spr.spraOff + 2 * i)
  { x := toI16 (s.slotX i)
    y := toI16 (s.slotY i)
    code := code.extractLsb' 2 6
    color := colorIndex s.cfg (s.byteAt (s.cfg.spr.spraOff + 2 * i + 1))
    flip := code.extractLsb' 0 2 }

/-- Bits of the button mask `HB` (R113). -/
def hbUp (hb : Word) : Bool := hb.getLsbD 0
def hbDown (hb : Word) : Bool := hb.getLsbD 1
def hbLeft (hb : Word) : Bool := hb.getLsbD 2
def hbRight (hb : Word) : Bool := hb.getLsbD 3
def hbCoin (hb : Word) : Bool := hb.getLsbD 4
def hbStart (hb : Word) : Bool := hb.getLsbD 5
def hbTrigger (hb : Word) : Bool := hb.getLsbD 6

/-- A list with a function of the place applied to every entry, places counted from `n`. -/
def mapFrom {α β : Type} (f : Nat → α → β) (n : Nat) (l : List α) : List β :=
  match l with
  | [] => []
  | x :: rest => f n x :: mapFrom f (n + 1) rest

/-- A band buffer with `f line column` written where `f` gives a word, and every other word as it was. -/
def drawOver (f : Nat → Nat → Option Half) (b : Band) : Band :=
  mapFrom (fun l line => mapFrom (fun x old => (f l x).getD old) 0 line) 0 b

end Sys2Proof.Machine
end

