-- ==== Sys2Proof/Machine/Flags.lean ====
section
/-! DEFINITION. The one-bit state of 10_state.md R53: the interrupt-enable latch, the tilt latches with their hysteresis
(46_input_power.md R305 to R308), and the flag predicates of the power policy and the detector. -/

namespace Sys2Proof.Machine

/-- `IE_enabled = (blk[IE_ADDR - BLOCK_BASE] & 1) = 1` (R34). -/
def State.ieEnabled (s : State) : Bool := (s.byteAt (ieOffset s.cfg)).getLsbD 0

/-- `DIR(m, latch)` of R305: strict thresholds, and the latch held between them. -/
def tiltDir (c : OrchParams) (m : Int) (latch : Bool) : Bool :=
  if m > c.tiltOn then true else if m < c.tiltOff then false else latch

/-- One axis of `TILT_STEP` (R305): the new latches `(toward, away)` for the signed magnitude `m` toward the first, with the
explicit exclusion lines. -/
def tiltAxis (c : OrchParams) (m : Int) (toward away : Bool) : Bool × Bool :=
  let d := tiltDir c m toward
  let u := tiltDir c (-m) away
  let u := if d then false else u
  let d := if u then false else d
  (d, u)

/-- `TILT_STEP(pitch, roll)` (R305). -/
def tiltStep (c : OrchParams) (pitch roll : Int) (t : Tilt) : Tilt :=
  let v := tiltAxis c (c.tiltPitchSign * pitch) t.down t.up
  let h := tiltAxis c (c.tiltRollSign * roll) t.right t.left
  { down := v.1, up := v.2, right := h.1, left := h.2 }

/-- `PLAYING()` (R324). -/
def State.playing (s : State) : Bool := s.cfg.orch.playThreshold.toNat ≤ (s.byteAt s.cfg.orch.modeOff).toNat

/-- `STATE2_GATE(b)` (00_scope.md R12). -/
def state2Gate (c : OrchParams) (b : Byte) : Bool := c.state2Gate.getLsbD b.toNat

/-- `quiet` of R320. -/
def State.quiet (s : State) : Bool :=
  (s.voices[0].vol == 0#4 && s.voices[1].vol == 0#4 && s.voices[2].vol == 0#4) || s.env.platform.mute

end Sys2Proof.Machine
end

