-- ==== Sys2Proof/Machine/Bus.lean ====
section
/-! DEFINITION. The CPU bus and port transactions (41_bus_controller.md). Each is open to the CPU in `CPU_EXEC` only
(60_exceptions.md R360) and ends with status `OK` (R163, R342). -/

namespace Sys2Proof.Machine

/-- `RD_ROM`, R145: `rom[a]`. -/
def execRdRom (addr : Half) (s : State) : Host.Outcome State Fault Refusal :=
  transact .bus [] (fun s => s.answer (s.load.romByte addr.toNat)) s

/-- `RD_BLK`, R141: `blk[a - BLOCK_BASE]`. -/
def execRdBlk (addr : Half) (s : State) : Host.Outcome State Fault Refusal :=
  transact .bus [] (fun s => s.answer (s.byteAt (readOffset s.cfg addr))) s

/-- `RD_IN0`, R142. -/
def execRdIn0 (s : State) : Host.Outcome State Fault Refusal :=
  transact .bus [] (fun s => s.answer s.mio.in0) s

/-- `RD_IN1`, R143. -/
def execRdIn1 (s : State) : Host.Outcome State Fault Refusal :=
  transact .bus [] (fun s => s.answer s.mio.in1) s

/-- `RD_DSW`, R144. -/
def execRdDsw (s : State) : Host.Outcome State Fault Refusal :=
  transact .bus [] (fun s => s.answer s.cfg.map.dswValue) s

/-- `RD_IOX`, R147: `UNMAPPED`. -/
def execRdIox (_addr : Half) (s : State) : Host.Outcome State Fault Refusal :=
  transact .bus [] (fun s => s.answer s.cfg.map.unmapped) s

/-- `RD_AUX`, R146: `rom[a - AUX_BASE + AUX_ROM_OFF]`; without the window the address is an unmapped one (R148). -/
def execRdAux (addr : Half) (s : State) : Host.Outcome State Fault Refusal :=
  transact .bus []
    (fun s => s.answer (if s.cfg.map.hasAux then s.load.romByte (auxOffset s.cfg addr) else s.cfg.map.unmapped)) s

/-- `RD_NONE`, R148: `UNMAPPED`. -/
def execRdNone (_addr : Half) (s : State) : Host.Outcome State Fault Refusal :=
  transact .bus [] (fun s => s.answer s.cfg.map.unmapped) s

/-- `WR_SPRA`, R151: `blk[m - BLOCK_BASE] <- v`. -/
def execWrSpra (addr : Half) (value : Byte) (s : State) : Host.Outcome State Fault Refusal :=
  transact .bus [] (fun s => (s.setByte (writeOffset s.cfg addr) value).done) s

/-- `WR_SPRP`, R154: `blk[m - BLOCK_BASE] <- v`. -/
def execWrSprp (addr : Half) (value : Byte) (s : State) : Host.Outcome State Fault Refusal :=
  transact .bus [] (fun s => (s.setByte (writeOffset s.cfg addr) value).done) s

/-- `WR_IE`, R152: `blk[IE_ADDR - BLOCK_BASE] <- v & 1`. -/
def execWrIe (_addr : Half) (value : Byte) (s : State) : Host.Outcome State Fault Refusal :=
  transact .bus [] (fun s => (s.setByte (ieOffset s.cfg) (value &&& 1#8)).done) s

/-- `WR_SND`, R153: `snd[m - SND_BASE] <- v & 0x0F`. -/
def execWrSnd (addr : Half) (value : Byte) (s : State) : Host.Outcome State Fault Refusal :=
  transact .bus [] (fun s => (s.setSnd (sndIndex s.cfg addr) (value &&& 0x0F#8)).done) s

/-- `WR_BLK`, R156: `blk[m - BLOCK_BASE] <- v`. -/
def execWrBlk (addr : Half) (value : Byte) (s : State) : Host.Outcome State Fault Refusal :=
  transact .bus [] (fun s => (s.setByte (writeOffset s.cfg addr) value).done) s

/-- `WR_NONE`, R155: discarded. -/
def execWrNone (_addr : Half) (_value : Byte) (s : State) : Host.Outcome State Fault Refusal :=
  transact .bus [] (fun s => s.done) s

/-- `IN_PORT`, R162: `PORT_RD_VALUE`. -/
def execInPort (_port : Half) (s : State) : Host.Outcome State Fault Refusal :=
  transact .bus [] (fun s => s.answer s.cfg.map.portRdValue) s

/-- `irqvec <- v` (10_state.md R36). -/
def State.setIrqvec (s : State) (v : Byte) : State := { s with mio := { s.mio with irqvec := v } }

/-- `OUT_VEC`, R160. -/
def execOutVec (_port : Half) (value : Byte) (s : State) : Host.Outcome State Fault Refusal :=
  transact .bus [] (fun s => (s.setIrqvec value).done) s

/-- `OUT_NONE`, R161: nothing. -/
def execOutNone (_port : Half) (_value : Byte) (s : State) : Host.Outcome State Fault Refusal :=
  transact .bus [] (fun s => s.done) s

end Sys2Proof.Machine
end

