-- ==== Sys2Proof/Machine/Synth.lean ====
section
/-! DEFINITION. The wavetable synthesizer (44_wavetable_synth.md): parse, render, refill. -/

namespace Sys2Proof.Machine

/-- The voice `v` after a parse (R234). A muted voice's frequency and waveform registers are not read (R233), and the
phase is not written. -/
def State.parseVoice (s : State) (v : Fin 3) : Voice :=
  let a := s.volField v
  let old := s.voices[v]
  if a = 0#4 then { old with vol := 0#4, freq := 0#20, wave := .silent }
  else { old with vol := a, freq := s.freqField v, wave := .wave (s.waveField v) }

/-- `SND_PARSE()`, R234. -/
def State.parseSound (s : State) : State :=
  { s with voices := #v[s.parseVoice 0, s.parseVoice 1, s.parseVoice 2] }

/-- `SND_PARSE`, R234. -/
def execSndParse (s : State) : Host.Outcome State Fault Refusal :=
  internal [] (fun s => s.parseSound) s

/-- `WAVE(w)[i]`, 10_state.md R41. -/
def waveSample (c : Params) (t : LoadTables) (w : Wave) (i : Nat) : Int :=
  match w with
  | .silent => 0
  | .wave n => t.sampleAt c n.toNat i

/-- `(phase >> PHASE_SHIFT) & IDX_MASK` (R235). -/
def waveIndex (c : SynthParams) (phase : Nat) : Nat := (phase >>> c.phaseShift) &&& c.idxMask

/-- One voice's contribution to a sample (R235): `vol * WAVE(wave)[i]`. -/
def voiceTerm (c : Params) (t : LoadTables) (v : Voice) : Int :=
  (v.vol.toNat : Int) * waveSample c t v.wave (waveIndex c.wsg v.phase)

/-- The sum over the three voices (R235). -/
def mixSum (c : Params) (t : LoadTables) (vs : Vector Voice 3) : Int :=
  voiceTerm c t vs[0] + voiceTerm c t vs[1] + voiceTerm c t vs[2]

/-- `clamp(CLAMP_LO, CLAMP_HI, GAIN * s) + BIAS` (R235, 00_scope.md R14). -/
def mixOut (c : SynthParams) (s : Int) : Int := min c.clampHi (max c.clampLo (c.gain * s)) + c.bias

/-- The phase advance of one sample (R235, R238). -/
def advancePhase (c : SynthParams) (v : Voice) : Voice :=
  { v with phase := (v.phase + v.freq.toNat) % 2 ^ c.phaseW }

/-- A sample as a `u16` (R235). Every integer in `[0, 65535]` fits; what is returned for another is a free value (DESIGN CHOICE,
log 29). -/
def toU16 (v : Int) : Half := if 0 ≤ v ∧ v ≤ 65535 then BitVec.ofInt 16 v else Config.wideSample v

/-- The value `SAMPLE()` returns (R235; outside `[0, 65535]` log 29). -/
def sampleOut (c : Params) (t : LoadTables) (vs : Vector Voice 3) : Half := toU16 (mixOut c.wsg (mixSum c t vs))

/-- The voices after `SAMPLE()` (R235). -/
def sampleVoices (c : SynthParams) (vs : Vector Voice 3) : Vector Voice 3 :=
  #v[advancePhase c vs[0], advancePhase c vs[1], advancePhase c vs[2]]

/-- The samples of `SND_RENDER(n)`, in order (R236). -/
def renderOut (c : Params) (t : LoadTables) (n : Nat) (vs : Vector Voice 3) : List Half :=
  match n with
  | 0 => []
  | n + 1 => sampleOut c t vs :: renderOut c t n (sampleVoices c.wsg vs)

/-- The voices after `SND_RENDER(n)` (R236). -/
def renderVoices (c : SynthParams) (n : Nat) (vs : Vector Voice 3) : Vector Voice 3 :=
  match n with
  | 0 => vs
  | n + 1 => renderVoices c n (sampleVoices c vs)

/-- The `n` samples of `SND_RENDER(n)` in this state. -/
def State.renderSamples (s : State) (n : Nat) : List Half := renderOut s.cfg s.load n s.voices

/-- The state with every phase advanced by `n` samples. -/
def State.advanceVoices (s : State) (n : Nat) : State := { s with voices := renderVoices s.cfg.wsg n s.voices }

/-- The samples go back to HOST (R236). -/
def State.answerSamples (s : State) (l : List Half) : State :=
  { s with env := { s.env with reply := .samples l, trace := s.env.trace ++ [.samplesTo l] } }

/-- `SND_RENDER`, R236. -/
def execSndRender (n : Half) (s : State) : Host.Outcome State Fault Refusal :=
  internal [] (fun s => (s.advanceVoices n.toNat).answerSamples (s.renderSamples n.toNat)) s

/-- `AUDIO_REFILL()`, R240: one slice to AUD; a dropped slice is a status and nothing else (R241). -/
def State.refillAudio (s : State) : State :=
  let n := s.cfg.wsg.audioSlice
  let sent := (s.advanceVoices n).emit (.audTransmit (s.renderSamples n) n s.env.platform.audRoom)
  if s.env.platform.audRoom then sent else sent.raise (.audioDropped n)

/-- `AUDIO_REFILL`, R240. -/
def execAudioRefill (s : State) : Host.Outcome State Fault Refusal :=
  internal [] (fun s => s.refillAudio) s

end Sys2Proof.Machine
end

