-- ==== Sys2Proof/Machine/Video.lean ====
section
/-! DEFINITION. The renderer: the table builds and the tile pass (42_tile_scrambler.md), sprite preparation, the sprite
pass and band rendering (43_sprite_compositor.md). -/

namespace Sys2Proof.Machine

/-- `TAT_BUILD()`, R170. -/
def State.buildTat (s : State) : State :=
  { s with video := { s.video with tat := some (tatTable s.cfg.geo) } }

/-- `PAL_BUILD()`, R174. -/
def State.buildPal (s : State) : State :=
  { s with video := { s.video with palx := some (palxTable s.cfg s.load) } }

/-- `TAT_BUILD`, R170. -/
def execTatBuild (s : State) : Host.Outcome State Fault Refusal :=
  internal [] (fun s => s.buildTat) s

/-- `PAL_BUILD`, R174: refused when the palette has not been loaded. -/
def execPalBuild (s : State) : Host.Outcome State Fault Refusal :=
  internal [(!s.load.pal.hasShape (palShape s.cfg), .notLoaded)] (fun s => s.buildPal) s

/-- The word `TILE_PASS(k, b)` writes at band line `l`, buffer column `x`, if it writes one (R175): the pixel of the tile
that covers the place, unless it is 0. -/
def State.tilePixel (s : State) (b l x : Nat) : Option Half :=
  let g := s.cfg.geo
  let c := x / g.tileW
  if c < g.ncols ∧ l < g.tileH then
    let off := s.tatAt b c
    let t := s.byteAt (g.vramOff + off)
    let color := colorIndex s.cfg (s.byteAt (g.cramOff + off))
    let p := tileRowPixel (s.load.tileRow s.cfg t.toNat l) (x % g.tileW)
    if p ≠ 0#2 then some (s.palxAt color.toNat p.toNat) else none
  else none

/-- `TILE_PASS(k, b)`, R175. -/
def State.drawTiles (s : State) (k b : Nat) : State :=
  s.setBand k (drawOver (fun l x => s.tilePixel b l x) (s.band k))

/-- `visible(x, y)`, R193. -/
def visible (c : Params) (x y : Int) : Bool :=
  -(c.spr.sprW : Int) < x && x < c.width && -(c.spr.sprH : Int) < y && y < c.height

/-- Slot `i` enters the Active Sprite List (R192): `code(i) < SPR_CODE_LIMIT and visible(x(i), y(i))`. -/
def State.keepSlot (s : State) (i : Nat) : Bool :=
  (s.slot i).code.toNat < s.cfg.spr.sprCodeLimit && visible s.cfg (s.slotX i) (s.slotY i)

/-- `SPR_PREP()`, R192: the kept slots, from the last slot down to slot 0. -/
def State.prepSprites (s : State) : State :=
  { s with video :=
    { s.video with
      asl := ((List.range s.cfg.spr.nsprites).reverse.filter s.keepSlot).map s.slot } }

/-- `SPR_PREP`, R192. -/
def execSprPrep (s : State) : Host.Outcome State Fault Refusal :=
  internal [] (fun s => s.prepSprites) s

/-- The sprite overlaps native band `b` vertically (R200, R201). -/
def overlapsBand (c : Params) (sp : Sprite) (b : Nat) : Bool :=
  sp.y.toInt < (c.geo.bandLines * b : Nat) + c.geo.bandLines && sp.y.toInt + c.spr.sprH > (c.geo.bandLines * b : Nat)

/-- The word the sprite `sp` writes at band line `l`, screen column `x` of band `b`, if it writes one (R200): the vertical
and horizontal clips, the flip variant, transparency. -/
def State.spritePixel (s : State) (sp : Sprite) (b l x : Nat) : Option Half :=
  let sr : Int := (s.cfg.geo.bandLines * b + l : Nat) - sp.y.toInt
  let col : Int := x - sp.x.toInt
  if overlapsBand s.cfg sp b ∧ l < s.cfg.geo.bandLines ∧ 0 ≤ sr ∧ sr < s.cfg.spr.sprH ∧
      0 ≤ col ∧ col < s.cfg.spr.sprW ∧ x < s.cfg.width then
    let row := s.load.spriteRow s.cfg sp.flip.toNat sp.code.toNat sr.toNat
    let p := pixelOf row col.toNat
    if p ≠ 0#2 then some (s.palxAt sp.color.toNat p.toNat) else none
  else none

/-- `SPRITE_PASS(k, b)`, R200: the sprites of `ASL` in list order, each over what is already there (R194). -/
def State.drawSprites (s : State) (k b : Nat) : State :=
  s.setBand k (s.video.asl.foldl (fun buf sp => drawOver (fun l x => s.spritePixel sp b l x) buf) (s.band k))

/-- `BAND_RENDER(k, b)`, R210: own the buffer, clear it, then both passes. -/
def State.renderBand (s : State) (k b : Nat) : State :=
  (((s.setOwner k .render).setBand k (blackBand s.cfg)).drawTiles k b).drawSprites k b

/-- `TAT` or `PALX` holds no value (70_reset_and_hazards.md R400). -/
def State.notBuilt (s : State) : Bool := s.video.tat.isNone || s.video.palx.isNone

/-- The refusals of a band operation of HOST, in the order of 60_exceptions.md R348. -/
def State.bandRefusals (s : State) (notBuilt : Bool) (buffer band : Byte) : List (Bool × RefusalCode) :=
  [(!(buffer.toNat ≤ 1 && band.toNat < s.cfg.nbands), .illegalWord), (notBuilt, .notBuilt),
    (s.owner buffer.toNat == .inflight, .bufferInflight)]

/-- `TILE_PASS`, R175. -/
def execTilePass (buffer band : Byte) (s : State) : Host.Outcome State Fault Refusal :=
  internal (s.bandRefusals s.notBuilt buffer band) (fun s => s.drawTiles buffer.toNat band.toNat) s

/-- `SPRITE_PASS`, R200: it reads `PALX` but not `TAT`. -/
def execSpritePass (buffer band : Byte) (s : State) : Host.Outcome State Fault Refusal :=
  internal (s.bandRefusals s.video.palx.isNone buffer band) (fun s => s.drawSprites buffer.toNat band.toNat) s

/-- `BAND_RENDER`, R210. -/
def execBandRender (buffer band : Byte) (s : State) : Host.Outcome State Fault Refusal :=
  internal (s.bandRefusals s.notBuilt buffer band) (fun s => s.renderBand buffer.toNat band.toNat) s

end Sys2Proof.Machine
end

