-- ==== Sys2Proof/Machine/Frame.lean ====
section
/-! DEFINITION. Frame assembly (43_sprite_compositor.md R211 to R217) as the phase transitions of
45_frame_orchestrator.md R261: `FRAME_RENDER` waits for DISP between bands, so it is carried out by ORCH one phase at a
time (log 5). -/

namespace Sys2Proof.Machine

/-- `BAND_SEND`, R213, R214: select the window of the `j`-th band, hand its buffer over. -/
def State.sendBand (s : State) (j : Nat) : State :=
  let g := s.cfg.geo
  (((((s.setPhase .bandSend).emit (.dispSetWindow g.hOffset (g.bandLines * j) s.cfg.width g.bandLines)).emit
    (.dispWrite (s.cfg.spr.palXform == .swap16) (s.band (j % 2)).flatten (g.bandLines * s.cfg.width))).setOwner (j % 2)
    .inflight).setBusy true)

/-- `Wait DISP.done` returned for the transfer of the `j`-th band (R213, 10_state.md R46, R47). What the buffer holds after DISP
has read it is any value (93_implementation_defined.md U6): a free value (log 28). -/
def State.waitReturned (s : State) (j : Nat) : State :=
  (((s.setOwner (j % 2) .free).setBusy false).setBand (j % 2) (drawnBand s.cfg s.env.draws (j % 2))).drew

/-- The `j`-th band begins: `band_j <- j; phase <- BAND_RENDER; BAND_RENDER(j mod 2, BAND_FIRST + j)` (R213). -/
def State.beginBand (s : State) (j : Nat) : State :=
  ((s.setBandJ j).setPhase .bandRender).renderBand (j % 2) (s.cfg.geo.bandFirst + j)

/-- ORCH enters a `Wait DISP.done` in the phase `p`. -/
def State.enterWait (s : State) (p : Phase) : State := (s.setPhase p).emit .dispWait

/-- After the send of a band and its refill: the next band, or the final wait (R261). -/
def State.nextBand (s : State) : State :=
  if s.orch.bandJ + 1 < s.cfg.geo.bandCount then s.beginBand (s.orch.bandJ + 1) else s.enterWait .frameWait

/-- From `BAND_RENDER` (R261): the first band is sent at once, a later one waits for the transfer before it. -/
def State.afterRender (s : State) : State :=
  if 0 < s.orch.bandJ then s.enterWait .bandWait else s.sendBand s.orch.bandJ

/-- From `BAND_WAIT`, DISP having reported done (R261). -/
def State.afterWait (s : State) : State := (s.waitReturned (s.orch.bandJ - 1)).sendBand s.orch.bandJ

/-- From `BAND_SEND` (R261, R215): an audio refill after every `AUDIO_REFILL_BANDS`-th band. -/
def State.afterSend (s : State) : State :=
  if (s.orch.bandJ + 1) % s.cfg.wsg.audioRefillBands = 0 then (s.setPhase .audioRefill).refillAudio else s.nextBand

/-- The final wait returned (R213, R216). -/
def State.frameDone (s : State) : State := (s.waitReturned (s.cfg.geo.bandCount - 1)).setBandJ s.cfg.geo.bandCount

/-- The refusals of `FRAME_RENDER` (R213), in the order of 60_exceptions.md R348. -/
def State.frameRefusals (s : State) : List (Bool × RefusalCode) :=
  [(s.notBuilt, .notBuilt), (s.video.dispBusy, .bufferInflight)]

/-- `FRAME_RENDER`, R213, presented: the first band is rendered, and ORCH carries the frame on from there. -/
def execFrameRender (s : State) : Host.Outcome State Fault Refusal :=
  transact .int s.frameRefusals (fun s => s.beginLong.beginBand 0) s

end Sys2Proof.Machine
end

