-- ==== Sys2Proof/Machine/Input.lean ====
section
/-! DEFINITION. Input sampling (46_input_power.md R300 to R312): the coin/start sequencer, the tilt mapper (its latches are
in Flags), and the composition of the two ports. -/

namespace Sys2Proof.Machine

/-- `CS_STEP(trig, now)`, R300: at most one transition. -/
def coinStep (c : OrchParams) (trig : Bool) (now : Word) (q : CoinSeq) : CoinSeq :=
  let el := (now - q.csT).toNat
  match q.cs with
  | .idle => if trig then { cs := .coinAsserted, csT := now } else q
  | .coinAsserted => if c.coinHoldMs ≤ el then { cs := .coinReleased, csT := now } else q
  | .coinReleased => if c.startDelayMs ≤ el then { cs := .startAsserted, csT := now } else q
  | .startAsserted => if c.startHoldMs ≤ el then { cs := .awaitRelease, csT := now } else q
  | .awaitRelease => if trig then q else { cs := .idle, csT := now }

/-- `seq_coin`, R301. -/
def seqCoin (q : CoinSeq) : Bool := q.cs == .coinAsserted

/-- `seq_start`, R301. -/
def seqStart (q : CoinSeq) : Bool := q.cs == .startAsserted

/-- A flag at bit `n` of a byte. -/
def bitAt (b : Bool) (n : Nat) : Byte := if b then 1#8 <<< n else 0#8

/-- `in0` of R311, from the effective controls of R310. -/
def composeIn0 (hb : Word) (t : Tilt) (q : CoinSeq) : Byte :=
  0xFF#8 &&& ~~~(bitAt (hbUp hb || t.up) 0 ||| bitAt (hbLeft hb || t.left) 1 ||| bitAt (hbRight hb || t.right) 2 |||
    bitAt (hbDown hb || t.down) 3 ||| bitAt (hbCoin hb || seqCoin q) 5)

/-- `in1` of R311. -/
def composeIn1 (hb : Word) (q : CoinSeq) : Byte := 0xFF#8 &&& ~~~(bitAt (hbStart hb || seqStart q) 5)

/-- `INPUT_SAMPLE()`, R312. -/
def State.sampleInput (s : State) : State :=
  let p := s.env.platform
  let t := tiltStep s.cfg.orch p.pitch p.roll s.tilt
  let q := coinStep s.cfg.orch (hbTrigger p.hb) p.nowMs s.coin
  { s with tilt := t, coin := q, mio := { s.mio with in0 := composeIn0 p.hb t q, in1 := composeIn1 p.hb q } }

/-- `INPUT_SAMPLE`, R312. -/
def execInputSample (s : State) : Host.Outcome State Fault Refusal :=
  internal [] (fun s => s.sampleInput) s

end Sys2Proof.Machine
end

