-- ==== Sys2Proof/Machine/Inspect.lean ====
section
/-! DEFINITION. The inspection surface (45_frame_orchestrator.md R290 to R293): raw access to `blk` by offset at a phase
boundary outside `CPU_EXEC`, and the credit reset. -/

namespace Sys2Proof.Machine

/-- `off >= BLOCK_SIZE`: the offset names no byte of the block (30_encoding.md R119). -/
def offsetOut (c : Params) (off : Half) : Bool := c.map.blockSize ≤ off.toNat

/-- `IRD`, R290: `blk[off]`. -/
def execIrd (off : Half) (s : State) : Host.Outcome State Fault Refusal :=
  transact .inspect [(offsetOut s.cfg off, .illegalWord)] (fun s => s.answer (s.byteAt off.toNat)) s

/-- `IWR`, R291: `blk[off] <- v`, raw. -/
def execIwr (off : Half) (value : Byte) (s : State) : Host.Outcome State Fault Refusal :=
  transact .inspect [(offsetOut s.cfg off, .illegalWord)] (fun s => (s.setByte off.toNat value).done) s

/-- `CRST()`, R292: `blk[CREDIT_OFF_A] <- 0; blk[CREDIT_OFF_B] <- 0`. -/
def State.creditReset (s : State) : State :=
  (s.setByte s.cfg.orch.creditOffA 0x00#8).setByte s.cfg.orch.creditOffB 0x00#8

/-- `CRST`, R292. -/
def execCrst (s : State) : Host.Outcome State Fault Refusal :=
  transact .crst [] (fun s => s.creditReset.done) s

end Sys2Proof.Machine
end

