-- ==== Sys2Proof/Machine/Power.lean ====
section
/-! DEFINITION. The power policy (46_input_power.md R320 to R325): amplifier gating, performance mode, backlight. -/

namespace Sys2Proof.Machine

/-- The power state becomes `p`. -/
def State.setPower (s : State) (p : Power) : State := { s with power := p }

/-- `AMP_ON()` of R321: a call only on a change. -/
def State.ampOn (s : State) : State :=
  if s.power.ampOn then s else (s.setPower { s.power with ampOn := true }).emit (.audSetPower true)

/-- `AMP_OFF()` of R321. -/
def State.ampOff (s : State) : State :=
  if s.power.ampOn then (s.setPower { s.power with ampOn := false }).emit (.audSetPower false) else s

/-- `silent_cnt <- n`. -/
def State.setSilent (s : State) (n : Nat) : State := s.setPower { s.power with silentCnt := n }

/-- `AMP_STEP(quiet, mute)`, R321. -/
def State.ampStep (s : State) (quiet mute : Bool) : State :=
  if s.power.mutePrev && !mute then (s.setSilent 0).ampOn
  else if !quiet then (s.setSilent 0).ampOn
  else
    let n := min s.cfg.orch.silenceFrames (s.power.silentCnt + 1)
    if n = s.cfg.orch.silenceFrames then (s.setSilent n).ampOff else s.setSilent n

/-- `PERF_STEP(playing)`, R322. -/
def State.perfStep (s : State) (playing : Bool) : State :=
  let m : Perf := if playing then .high else .low
  if m = s.power.perf then s else (s.setPower { s.power with perf := m }).emit (.hostSetPerf m)

/-- `backlight <- level`, with the call, when it is not the level already (R323). -/
def State.setBacklight (s : State) (level : Byte) : State :=
  if s.power.backlight = level then s
  else (s.setPower { s.power with backlight := level }).emit (.dispSetBacklight level)

/-- `idle_cnt <- n`. -/
def State.setIdle (s : State) (n : Nat) : State := s.setPower { s.power with idleCnt := n }

/-- `BL_STEP(playing)`, R323. -/
def State.blStep (s : State) (playing : Bool) : State :=
  if playing then (s.setIdle 0).setBacklight s.cfg.orch.blFull
  else
    let n := min s.cfg.orch.idleFrames (s.power.idleCnt + 1)
    if n = s.cfg.orch.idleFrames then (s.setIdle n).setBacklight s.cfg.orch.blDim else s.setIdle n

/-- `mute_prev <- mute`. -/
def State.setMutePrev (s : State) (mute : Bool) : State := s.setPower { s.power with mutePrev := mute }

/-- `POWER_EVAL()`, R320. -/
def State.evalPower (s : State) : State :=
  let mute := s.env.platform.mute
  ((((s.emit .audGetMute).ampStep s.quiet mute).perfStep s.playing).blStep s.playing).setMutePrev mute

/-- `POWER_EVAL`, R320. -/
def execPowerEval (s : State) : Host.Outcome State Fault Refusal :=
  internal [] (fun s => s.evalPower) s

end Sys2Proof.Machine
end

