-- ==== Sys2Proof/Machine/Orchestrator.lean ====
section
/-! DEFINITION. The frame orchestrator: CPU execution, the vblank interrupt, the attract detector with its cutscene, pacing,
the tick (45_frame_orchestrator.md), and reset (70_reset_and_hazards.md R380 to R384). -/

namespace Sys2Proof.Machine

/-- `CPU_EXEC()`, R270: the phase in which the CPU presents its transactions, and the call. -/
def State.runCpu (s : State) : State := (s.setPhase .cpuExec).emit (.cpuExecute s.cfg.orch.cpuBudget)

/-- `CPU_EXEC`, R270. -/
def execCpuExec (s : State) : Host.Outcome State Fault Refusal :=
  transact .int [] (fun s => s.beginLong.runCpu) s

/-- `VBLANK()`, R275, R276. -/
def State.raiseVblank (s : State) : State := if s.ieEnabled then s.deliverInterrupt else s

/-- `VBLANK`, R275. -/
def execVblank (s : State) : Host.Outcome State Fault Refusal :=
  internal [] (fun s => s.raiseVblank) s

/-- The detector's state after one step outside the grace period, and whether it fires (R280). -/
def detectorStep (c : OrchParams) (m s2 : Byte) (d : Detector) : Detector × Bool :=
  let played := if m = c.playValue then false else d.played
  let fire := m == c.attractValue && d.prevMode != c.attractValue && !played && state2Gate c s2
  ({ d with prevMode := m, played := fire || played }, fire)

/-- The detector's state becomes `d`. -/
def State.setDet (s : State) (d : Detector) : State := { s with det := d }

/-- `ATTRACT()`, R280, up to `phase <- CUTSCENE`: in the grace period the mode byte is tracked and nothing fires; whether it
fires is kept in `cutDue` (log 30). -/
def State.stepDetector (s : State) : State :=
  let m := s.byteAt s.cfg.orch.modeOff
  let s2 := s.byteAt s.cfg.orch.state2Off
  if s.det.graceCnt < s.cfg.orch.graceTicks then
    (s.setDet { s.det with graceCnt := s.det.graceCnt + 1, prevMode := m }).setCutDue false
  else
    let r := detectorStep s.cfg.orch m s2 s.det
    (s.setDet r.1).setCutDue r.2

/-- `phase <- CUTSCENE`, and `CUTSCENE()` up to its wait (R280, R281). -/
def State.enterCutscene (s : State) : State := (s.setPhase .cutscene).emit .cutPlay

/-- `ATTRACT`, R280. When the detector fires, the cutscene runs before the operation ends. -/
def execAttract (s : State) : Host.Outcome State Fault Refusal :=
  transact .int []
    (fun s =>
      let stepped := s.beginOp.stepDetector
      if stepped.orch.cutDue then stepped.enterCutscene.setHostOp s.byHost else stepped.finishOp) s

/-- `PACE()`, R284, up to the sleep: ORCH is in `PACE`, and asks HOST to sleep when the target is in the future. -/
def State.enterPace (s : State) : State :=
  if s.early then (s.setPhase .pace).emit (.hostSleepUntil s.paceTarget) else s.setPhase .pace

/-- `PACE`, R284. HOST's returns at once unless the target is in the future. -/
def execPace (s : State) : Host.Outcome State Fault Refusal :=
  transact .int [] (fun s => if s.byHost && !s.early then s.begin.finish else s.beginLong.enterPace) s

/-- CUT has answered (R280, R282): a failure is a status, and the credit reset ends HOST's operation, or leaves ORCH in `CUTSCENE`
with everything done, at the boundary before `PACE` (R261; 20_memory.md R82). -/
def State.afterCutscene (s : State) : State :=
  let raised := if s.env.platform.cut = .fail then s.raise .cutsceneFailed else s
  let ended := raised.creditReset.setCutDue false
  if s.orch.hostOp then ended.backToTickStart else ended

/-- `tick_t0 <- now_us` (R261, 10_state.md R62). -/
def State.stampTick (s : State) : State := { s with orch := { s.orch with tickT0 := s.env.platform.nowUs } }

/-- A `TICK` begins (R262, first lines; R261, row `TICK_START` to `CPU_EXEC`). -/
def State.startTick (s : State) : State := (s.begin.stampTick.setHostOp false).runCpu

/-- `TICK`, R262. The tick goes on in the phase transitions of `orchStep` (log 5); it is refused when it would reach an
unbuilt table (70_reset_and_hazards.md R400). -/
def execTick (s : State) : Host.Outcome State Fault Refusal :=
  transact .tick [(s.notBuilt, .notBuilt)] (fun s => s.startTick) s

/-- From `SPR_PREP` (R261): the frame begins; a frame that R213 refuses is a status of the tick (R347, log 20). -/
def State.enterFrame (s : State) : State :=
  match (s.frameRefusals.find? (·.1)).map (·.2) with
  | some code => (((s.refuse code).raise (.refused code)).setPhase .input).sampleInput
  | none => s.beginBand 0

/-- One phase transition of ORCH, R261: it goes on to the next phase and does the work of its entry. A wait whose agent has
not answered leaves the state as it is (log 17). -/
def orchStep (s : State) : Host.Outcome State Fault Refusal :=
  match s.orch.phase with
  | .reset => .next s
  | .initFailed => .next s
  | .tickStart => execTick (s.setAgent .orch)
  | .cpuExec => .next (if s.orch.hostOp then s.backToTickStart else (s.setPhase .parse).parseSound)
  | .parse => .next (s.setPhase .sprPrep).prepSprites
  | .sprPrep => .next s.enterFrame
  | .bandRender => .next s.afterRender
  | .bandWait => .next (if s.env.platform.dispDone then s.afterWait else s)
  | .bandSend => .next s.afterSend
  | .audioRefill => .next s.nextBand
  | .frameWait =>
    .next (if s.env.platform.dispDone then
        (if s.orch.hostOp then s.frameDone.backToTickStart else (s.frameDone.setPhase .input).sampleInput)
      else s)
  | .input => .next (s.setPhase .power).evalPower
  | .power => .next (s.setPhase .vblank).raiseVblank
  | .vblank => .next (s.setPhase .attract).stepDetector
  | .attract => .next (if s.orch.cutDue then s.enterCutscene else s.enterPace)
  | .cutscene =>
    .next (if s.orch.cutDue then (if s.env.platform.cut = .playing then s else s.afterCutscene) else s.enterPace)
  | .pace => .next (if s.early then s else s.backToTickStart)

/-- A byte of `blk` or of `snd` drawn at a reset, in canonical form (10_state.md R65, `ARBITRARY`). -/
def drawnBlock (size n : Nat) : Memory :=
  ((List.range size).map fun i => (i, Config.drawByte n i)).filter fun x => x.2 ≠ 0#8

/-- The controller after reset (R65): zero, or draws, as `RESET_FILL` says; a drawn sound register is in `[0, 15]`. -/
def resetMio (c : Params) (n : Nat) : Mio :=
  match c.map.resetFill with
  | .zero => Mio.reset c
  | .arbitrary =>
    { Mio.reset c with
      blk := drawnBlock c.map.blockSize n
      snd := (List.range c.map.sndSize).map fun i => Config.drawByte n (c.map.blockSize + i) &&& 0x0F#8 }

/-- "set every dynamic state element to its value in 10_state.md rule R65" (R380). The run's outputs, the refusal mark and
what the outside world does next are not state of the block and stay (log 16). -/
def State.resetBlock (s : State) : State :=
  let n := s.env.draws
  { s with
    mio := resetMio s.cfg n
    voices := Vector.replicate 3 Voice.reset
    video :=
      { tat := s.video.tat, palx := s.video.palx, asl := [], buf0 := drawnBand s.cfg n 0, buf1 := drawnBand s.cfg n 1
        owner0 := .free, owner1 := .free, dispBusy := false }
    tilt := Tilt.reset
    coin := CoinSeq.reset
    power := Power.reset s.cfg
    det := Detector.reset
    orch := { phase := .reset, bandJ := 0, tickT0 := Config.drawTime n, fault := none, hostOp := false, cutDue := false }
    env := { s.env with st := [], draws := n + 1 } }

/-- `BOOT_CALLS()`, 70_reset_and_hazards.md R384. -/
def State.boot (s : State) : State := { s with env := { s.env with trace := s.env.trace ++ bootCalls s.cfg } }

/-- The first subsystem that cannot be set up, in the order of R380 (R382). -/
def allocFailure (p : Platform) : Option Subsystem :=
  if !p.allocMio then some .mio
  else if !p.allocSpc then some .spc
  else if !p.allocWsg then some .wsg
  else if !p.allocOrch then some .orch
  else none

/-- `fault <- INIT_FAIL(s); phase <- INIT_FAILED; raise InitFail(s)` (R380, R382). -/
def State.failInit (s : State) (sub : Subsystem) : State :=
  { s with
    orch := { s.orch with phase := .initFailed, fault := some sub, hostOp := false, cutDue := false }
    env := { s.env with st := [], status := .initFail sub, reply := .none } }

/-- `RESET()` once it is admitted (R380). -/
def State.reboot (s : State) : State :=
  match allocFailure s.env.platform with
  | some sub => s.failInit sub
  | none => ((s.resetBlock.buildTat.buildPal.boot).setPhase .tickStart).done

/-- `RESET`, R380. -/
def execReset (s : State) : Host.Outcome State Fault Refusal :=
  transact .reset [(!paramsOk s.cfg, .badConfig), (!s.load.loaded s.cfg, .notLoaded)] (fun s => s.reboot) s

end Sys2Proof.Machine
end

