-- ==== Sys2Proof/Machine/Dispatch.lean ====
section
/-! DEFINITION. What each transaction does: one arm per constructor of `Instr`, each one call of its meaning. -/

namespace Sys2Proof.Machine

open Sys2Proof

def exec (i : Instr) (s : State) : Host.Outcome State Fault Refusal :=
  match i with
  | .rdRom addr => Sys2Proof.Machine.execRdRom addr s
  | .rdBlk addr => Sys2Proof.Machine.execRdBlk addr s
  | .rdIn0 => Sys2Proof.Machine.execRdIn0 s
  | .rdIn1 => Sys2Proof.Machine.execRdIn1 s
  | .rdDsw => Sys2Proof.Machine.execRdDsw s
  | .rdIox addr => Sys2Proof.Machine.execRdIox addr s
  | .rdAux addr => Sys2Proof.Machine.execRdAux addr s
  | .rdNone addr => Sys2Proof.Machine.execRdNone addr s
  | .wrSpra addr value => Sys2Proof.Machine.execWrSpra addr value s
  | .wrSprp addr value => Sys2Proof.Machine.execWrSprp addr value s
  | .wrIe addr value => Sys2Proof.Machine.execWrIe addr value s
  | .wrSnd addr value => Sys2Proof.Machine.execWrSnd addr value s
  | .wrBlk addr value => Sys2Proof.Machine.execWrBlk addr value s
  | .wrNone addr value => Sys2Proof.Machine.execWrNone addr value s
  | .inPort port => Sys2Proof.Machine.execInPort port s
  | .outVec port value => Sys2Proof.Machine.execOutVec port value s
  | .outNone port value => Sys2Proof.Machine.execOutNone port value s
  | .ird off => Sys2Proof.Machine.execIrd off s
  | .iwr off value => Sys2Proof.Machine.execIwr off value s
  | .crst => Sys2Proof.Machine.execCrst s
  | .reset => Sys2Proof.Machine.execReset s
  | .tick => Sys2Proof.Machine.execTick s
  | .tatBuild => Sys2Proof.Machine.execTatBuild s
  | .sndParse => Sys2Proof.Machine.execSndParse s
  | .sndRender n => Sys2Proof.Machine.execSndRender n s
  | .sprPrep => Sys2Proof.Machine.execSprPrep s
  | .bandRender buffer band => Sys2Proof.Machine.execBandRender buffer band s
  | .frameRender => Sys2Proof.Machine.execFrameRender s
  | .inputSample => Sys2Proof.Machine.execInputSample s
  | .powerEval => Sys2Proof.Machine.execPowerEval s
  | .vblank => Sys2Proof.Machine.execVblank s
  | .attract => Sys2Proof.Machine.execAttract s
  | .audioRefill => Sys2Proof.Machine.execAudioRefill s
  | .palBuild => Sys2Proof.Machine.execPalBuild s
  | .tilePass buffer band => Sys2Proof.Machine.execTilePass buffer band s
  | .spritePass buffer band => Sys2Proof.Machine.execSpritePass buffer band s
  | .cpuExec => Sys2Proof.Machine.execCpuExec s
  | .pace => Sys2Proof.Machine.execPace s

end Sys2Proof.Machine
end

