-- ==== Sys2Proof/Machine/Fetch.lean ====
section
/-! DEFINITION. How a transaction word reaches the block: what the outside world presents next is decoded and carried out; an
illegal word is refused (30_encoding.md R119); when nothing is presented ORCH goes on (log 6). -/

namespace Sys2Proof.Machine

open Sys2Proof

/-- The row of R360 a word belongs to, by its `CMD` (R101); none when `CMD` is reserved. -/
def cmdClassOf (cmd : BitVec 4) : Option CmdClass :=
  match cmd.toNat with
  | 0x1 => some .bus
  | 0x2 => some .bus
  | 0x3 => some .bus
  | 0x4 => some .bus
  | 0x5 => some .inspect
  | 0x6 => some .inspect
  | 0x7 => some .crst
  | 0x8 => some .reset
  | 0x9 => some .tick
  | 0xF => some .int
  | _ => none

/-- The word's class is open to the agent now; a word of a reserved `CMD` has no class to be closed (log
11). -/
def wordAllowed (w : Word) (s : State) : Bool :=
  match cmdClassOf (wordCmd w) with
  | some c => allowed c s.env.agent s
  | none => true

/-- The status of an illegal word, in the order of 60_exceptions.md R348; before the first `RESET` nothing but `RESET` is
admitted (70_reset_and_hazards.md R386). -/
def illegalCode (w : Word) (s : State) : RefusalCode :=
  if s.orch.fault.isSome then .faulted
  else if s.orch.phase == .reset || !wordAllowed w s then .badPhase
  else .illegalWord

/-- An agent presents a word: the decoded instruction is carried out, or the word is refused. -/
def present (a : Agent) (w : Word) (s : State) : Host.Outcome State Fault Refusal :=
  match decode s.cfg w with
  | some i => exec i (s.setAgent a)
  | none => .next ((s.setAgent a).refuse (illegalCode w (s.setAgent a)))

/-- The platform's levels become `p`. -/
def State.setPlatform (s : State) (p : Platform) : State := { s with env := { s.env with platform := p } }

/-- One step of the machine: what the outside world does next, or ORCH's next phase transition. -/
def advance (s : State) : Host.Outcome State Fault Refusal :=
  match s.env.inputs with
  | [] => orchStep s
  | .turn :: rest => orchStep (s.setInputs rest)
  | .levels p :: rest => .next ((s.setInputs rest).setPlatform p)
  | .host w :: rest => present .host w (s.setInputs rest)
  | .cpu w :: rest => present .cpu w (s.setInputs rest)

/-- The launch has the auxiliary ROM window, and a ROM image of that size (00_scope.md R12, P0-MS). -/
def State.launchAux (s : State) : State :=
  { s with
    cfg := withAux s.cfg
    load := { s.load with rom := { s.load.rom with dims := romShape (withAux s.cfg) } } }

/-- The launch a word needs: `RD_AUX` exists only with the auxiliary window (log 13). -/
def State.launchFor (s : State) (w : Word) : State :=
  match decode (withAux s.cfg) w with
  | some (.rdAux _) => s.launchAux
  | _ => s

/-- What a `RESET` does for the words after it: both tables are built and ORCH is in `TICK_START`. A machine that has had its
`RESET` is left as it is (log 13). -/
def State.bringUp (s : State) : State :=
  if s.orch.phase = .reset then (s.buildTat.buildPal).setPhase .tickStart else s

/-- `w` is what the agent that may issue it presents next: a bus or port word comes from the CPU, in `CPU_EXEC`; any other
from HOST, after the bring-up that every word but `RESET` needs (70_reset_and_hazards.md R386). -/
def placeWord (s : State) (nbits w : Nat) : State :=
  let t : Word := BitVec.ofNat 32 (w % 2 ^ nbits)
  let next := (s.launchFor t).setInputs
  match cmdClassOf (wordCmd t) with
  | some .bus => ((next (.cpu t :: s.env.inputs)).bringUp).setPhase .cpuExec
  | some .reset => next (.host t :: s.env.inputs)
  | _ => (next (.host t :: s.env.inputs)).bringUp

end Sys2Proof.Machine
end

