-- ==== Sys2Proof/Machine/Step.lean ====
section
/-! DEFINITION. One step of the machine, and the placing of the next instruction word. -/

namespace Sys2Proof.Machine

/-- One step: a transaction, a change of the platform's levels, or a phase transition of ORCH. -/
def step (s : State) : Host.Outcome State Fault Refusal := advance s

/-- `s` with the instruction word `w` presented next. -/
def State.withFetchWord (s : State) (nbits w : Nat) : State := placeWord s nbits w

end Sys2Proof.Machine
end

