-- ==== Sys2Proof/Machine/Tick.lean ====
section
/-! DEFINITION. The straight-line pseudocode of a frame (43_sprite_compositor.md R213) and of a tick
(45_frame_orchestrator.md R262), with every wait answered at once: what the phase transitions of `orchStep` add up to. The
machine does not run these; statements compare it with them. -/

namespace Sys2Proof.Machine

/-- The body of R213's loop for the `j`-th band. -/
def State.frameBand (s : State) (j : Nat) : State :=
  let rendered := s.beginBand j
  let waited := if 0 < j then (rendered.enterWait .bandWait).waitReturned (j - 1) else rendered
  let sent := waited.sendBand j
  if (j + 1) % s.cfg.wsg.audioRefillBands = 0 then (sent.setPhase .audioRefill).refillAudio else sent

/-- The first `n` rounds of R213's loop. -/
def State.frameBands (s : State) (n : Nat) : State :=
  match n with
  | 0 => s
  | n + 1 => (s.frameBands n).frameBand n

/-- `FRAME_RENDER()`, R213. -/
def State.frameWhole (s : State) : State := ((s.frameBands s.cfg.geo.bandCount).enterWait .frameWait).frameDone

/-- `ATTRACT()` with its cutscene, then `PACE()` up to the sleep (R262, R280 to R282, R284). -/
def State.attractAndPace (s : State) : State :=
  let a := (s.setPhase .attract).stepDetector
  if a.orch.cutDue then a.enterCutscene.afterCutscene.enterPace else a.enterPace

/-- The lines of R262 after `CPU_EXEC()` and before `ATTRACT()`. -/
def State.tickMiddle (s : State) : State :=
  let prepared := ((((s.setPhase .parse).parseSound).setPhase .sprPrep).prepSprites)
  let sampled := (prepared.frameWhole.setPhase .input).sampleInput
  (((sampled.setPhase .power).evalPower).setPhase .vblank).raiseVblank

/-- `TICK()`, R262, up to the sleep of `PACE`, for a CPU that presents no transaction. -/
def State.tickWhole (s : State) : State := s.startTick.tickMiddle.attractAndPace

end Sys2Proof.Machine
end

