-- ==== Sys2Proof/Safety.lean ====
section
/-! DEFINITION. What counts as a safe run, the invariants statements are made of, and the words they are written in: when a
transaction is admitted, what it leaves unchanged, what it puts out, and the pixel formulas of the two passes. -/

namespace Sys2Proof.Machine

/-- A failed run (45_frame_orchestrator.md R263): the refusal mark is set or `fault` is not `NONE`. -/
def State.failed (s : State) : Bool := s.env.mark || s.orch.fault.isSome

/-- The state is observed at a tick boundary (R263). -/
def State.atTickBoundary (s : State) : Bool := s.orch.phase == .tickStart

/-- `blk` is in canonical form. -/
def MemoryOk (s : State) : Prop := s.mio.blk.wf

/-- There are `SND_SIZE` sound registers, and each holds a value in `[0, 15]` (10_state.md R35). -/
def SoundOk (s : State) : Prop := s.mio.snd.length = s.cfg.map.sndSize ∧ ∀ i, (s.sndAt i).toNat < 16

/-- At most one latch of each axis is set (46_input_power.md R307). -/
def TiltOk (s : State) : Prop := ¬(s.tilt.up = true ∧ s.tilt.down = true) ∧ ¬(s.tilt.left = true ∧ s.tilt.right = true)

/-- The counters stay in their ranges (10_state.md R51, R52). -/
def CountersOk (s : State) : Prop :=
  s.power.silentCnt ≤ s.cfg.orch.silenceFrames ∧ s.power.idleCnt ≤ s.cfg.orch.idleFrames ∧
    s.det.graceCnt ≤ s.cfg.orch.graceTicks

/-- The screen and a sprite that touches it lie within 16-bit coordinates. -/
def ScreenFits (c : Params) : Prop :=
  c.width ≤ 32768 ∧ c.height ≤ 32768 ∧ c.spr.sprW ≤ 32768 ∧ c.spr.sprH ≤ 32768

/-- At most `NSPRITES` descriptors, each with a valid code and a masked colour, and on the screen (R45; where the screen fits
16-bit coordinates, log 26). -/
def SpritesOk (s : State) : Prop :=
  s.video.asl.length ≤ s.cfg.spr.nsprites ∧ ∀ d ∈ s.video.asl,
    d.code.toNat < s.cfg.spr.sprCodeLimit ∧ d.color &&& s.cfg.spr.colorMask = d.color ∧
      (ScreenFits s.cfg → visible s.cfg d.x.toInt d.y.toInt = true)

/-- A phase of `PHASE_W` bits, and a silent voice of frequency and volume 0 (10_state.md R40, 44_wavetable_synth.md R238). -/
def VoicesOk (s : State) : Prop :=
  ∀ v : Fin 3, (s.voices[v]).phase < 2 ^ s.cfg.wsg.phaseW ∧
    ((s.voices[v]).wave = .silent → (s.voices[v]).freq = 0#20 ∧ (s.voices[v]).vol = 0#4)

/-- `fault` is set exactly in `INIT_FAILED` (10_state.md R63, 70_reset_and_hazards.md R380). -/
def FaultOk (s : State) : Prop := s.orch.fault.isSome = true ↔ s.orch.phase = .initFailed

/-- Once a `RESET` has succeeded both tables hold values (70_reset_and_hazards.md R400). -/
def BuiltOk (s : State) : Prop := s.orch.phase = .reset ∨ s.orch.phase = .initFailed ∨ s.notBuilt = false

/-- The buffer whose transfer ORCH has not yet observed complete, from the phase and `band_j` (43_sprite_compositor.md
R214). -/
def State.inFlight (s : State) : Option Nat :=
  match s.orch.phase with
  | .bandRender => if 0 < s.orch.bandJ then some ((s.orch.bandJ - 1) % 2) else none
  | .bandWait => if 0 < s.orch.bandJ then some ((s.orch.bandJ - 1) % 2) else none
  | .bandSend => some (s.orch.bandJ % 2)
  | .audioRefill => some (s.orch.bandJ % 2)
  | .frameWait => some ((s.cfg.geo.bandCount - 1) % 2)
  | _ => none

/-- ORCH is working on a band. -/
def bandPhase : Phase → Bool
  | .bandRender => true
  | .bandWait => true
  | .bandSend => true
  | .audioRefill => true
  | _ => false

/-- The buffer protocol of R214: at most one buffer is in flight, it is the one the phase says, and `disp_busy` says so; and
`band_j` names a band of the frame. -/
def DisplayOk (s : State) : Prop :=
  s.orch.phase = .initFailed ∨
    (s.video.dispBusy = s.inFlight.isSome ∧ (s.video.owner0 = .inflight ↔ s.inFlight = some 0) ∧
      (s.video.owner1 = .inflight ↔ s.inFlight = some 1) ∧
      (bandPhase s.orch.phase = true → s.orch.bandJ ≤ s.cfg.geo.bandCount - 1))

/-- The two band buffers have the shape of 10_state.md R46: `BAND_LINES` lines of `W` words. -/
def BandsOk (s : State) : Prop :=
  ∀ k : Nat, (s.band k).length = s.cfg.geo.bandLines ∧ ∀ line ∈ s.band k, line.length = s.cfg.width

/-- `BUF[k][l][x]` (R46). -/
def State.pixel (s : State) (k l x : Nat) : Half := ((s.band k).getD l []).getD x 0#16

/-- The row of the access table of 60_exceptions.md R360 an instruction belongs to. -/
def cmdClass : Instr → CmdClass
  | .rdRom _ => .bus
  | .rdBlk _ => .bus
  | .rdIn0 => .bus
  | .rdIn1 => .bus
  | .rdDsw => .bus
  | .rdIox _ => .bus
  | .rdAux _ => .bus
  | .rdNone _ => .bus
  | .wrSpra _ _ => .bus
  | .wrSprp _ _ => .bus
  | .wrIe _ _ => .bus
  | .wrSnd _ _ => .bus
  | .wrBlk _ _ => .bus
  | .wrNone _ _ => .bus
  | .inPort _ => .bus
  | .outVec _ _ => .bus
  | .outNone _ _ => .bus
  | .ird _ => .inspect
  | .iwr _ _ => .inspect
  | .crst => .crst
  | .reset => .reset
  | .tick => .tick
  | .tatBuild => .int
  | .sndParse => .int
  | .sndRender _ => .int
  | .sprPrep => .int
  | .bandRender _ _ => .int
  | .frameRender => .int
  | .inputSample => .int
  | .powerEval => .int
  | .vblank => .int
  | .attract => .int
  | .audioRefill => .int
  | .palBuild => .int
  | .tilePass _ _ => .int
  | .spritePass _ _ => .int
  | .cpuExec => .int
  | .pace => .int

/-- The CPU presents a transaction and R360 admits it. -/
def CpuReady (s : State) : Prop := s.orch.fault = none ∧ s.env.agent = .cpu ∧ s.orch.phase = .cpuExec

/-- HOST presents an inspection transaction and R360 admits it: ORCH runs, is not in `CPU_EXEC`, and is not inside an operation
(20_memory.md R82): not in a wait for a transfer that goes on, in a cutscene that is not over, or in a pacing sleep (log 18). -/
def InspectReady (s : State) : Prop :=
  s.orch.fault = none ∧ s.env.agent = .host ∧
    s.orch.phase ≠ .reset ∧ s.orch.phase ≠ .initFailed ∧ s.orch.phase ≠ .cpuExec ∧
    (s.orch.phase = .cutscene → s.orch.cutDue = false) ∧
    (s.orch.phase = .bandWait ∨ s.orch.phase = .frameWait → s.env.platform.dispDone = true) ∧
    (s.orch.phase = .pace → s.orch.tickT0.toNat + s.cfg.orch.tickPeriodUs ≤ s.env.platform.nowUs.toNat)

/-- The credit reset is admitted: HOST as for an inspection, or ORCH in `ATTRACT`, its cutscene included (R360,
45_frame_orchestrator.md R280). -/
def CreditReady (s : State) : Prop :=
  InspectReady s ∨ (s.orch.fault = none ∧ s.env.agent = .orch ∧ (s.orch.phase = .attract ∨ s.orch.phase = .cutscene))

/-- An `INT` operation is admitted (R360): HOST in `TICK_START`, or ORCH within a tick (log 25). -/
def IntReady (s : State) : Prop :=
  s.orch.fault = none ∧
    ((s.env.agent = .host ∧ s.orch.phase = .tickStart) ∨
      (s.env.agent = .orch ∧ s.orch.phase ≠ .reset ∧ s.orch.phase ≠ .initFailed ∧ s.orch.phase ≠ .tickStart))

/-- A `TICK` is admitted (R360): HOST's or ORCH's own, in `TICK_START`. -/
def TickReady (s : State) : Prop :=
  s.orch.fault = none ∧ (s.env.agent = .host ∨ s.env.agent = .orch) ∧ s.orch.phase = .tickStart

/-- The transaction puts out exactly the observable outputs `l` (45_frame_orchestrator.md R263), and leaves the refusal
mark and the outside world's side as they were. -/
def PutsOut (s t : State) (l : List Obs) : Prop :=
  t.env.trace = s.env.trace ++ l ∧ t.env.mark = s.env.mark ∧ t.env.inputs = s.env.inputs ∧
    t.env.platform = s.env.platform ∧ t.env.agent = s.env.agent ∧ t.env.draws = s.env.draws

/-- HOST gets the status `st` at the end of its operation (60_exceptions.md R341); one of ORCH's within a tick adds
its statuses to the tick's list (R347). -/
def EndsWith (s t : State) (st : Status) : Prop := s.env.agent = .host → t.env.status = st

/-- Every byte of `blk` reads as before. -/
def BytesSame (s t : State) : Prop := ∀ off, t.byteAt off = s.byteAt off

/-- No state of the block differs. -/
def BlockSame (s t : State) : Prop := t = { s with env := t.env } ∧ BytesSame s t

/-- Of the block at most `voice` differs. -/
def VoicesOnly (s t : State) : Prop := t = { s with voices := t.voices, env := t.env } ∧ BytesSame s t

/-- Of the block at most the renderer's state differs. -/
def VideoOnly (s t : State) : Prop := t = { s with video := t.video, env := t.env } ∧ BytesSame s t

/-- Of the block at most the two band buffers differ. -/
def BuffersOnly (s t : State) : Prop :=
  t = { s with video := { s.video with buf0 := t.video.buf0, buf1 := t.video.buf1 }, env := t.env } ∧ BytesSame s t

/-- Of the block at most the ports, the tilt latches and the coin sequencer differ. -/
def InputsOnly (s t : State) : Prop :=
  t = { s with mio := { s.mio with in0 := t.mio.in0, in1 := t.mio.in1 }, tilt := t.tilt, coin := t.coin, env := t.env } ∧
    BytesSame s t

/-- Of the block at most the power state differs. -/
def PowerOnly (s t : State) : Prop := t = { s with power := t.power, env := t.env } ∧ BytesSame s t

/-- Of the block at most the orchestrator's state differs. -/
def OrchOnly (s t : State) : Prop := t = { s with orch := t.orch, env := t.env } ∧ BytesSame s t

/-- Of the block at most the bytes of `blk` differ. -/
def BlkOnly (s t : State) : Prop := t = { s with mio := { s.mio with blk := t.mio.blk }, env := t.env }

/-- A read transaction's whole effect: the byte `b` goes to the agent, with status `OK` (30_encoding.md R101). -/
def ReturnsByte (s t : State) (b : Byte) : Prop :=
  BlockSame s t ∧ PutsOut s t [.byteTo s.env.agent b] ∧ t.env.status = .ok ∧ t.env.reply = .byte b

/-- A transaction that completes with status `OK`, returns nothing and puts nothing out. -/
def EndsQuietly (s t : State) : Prop := PutsOut s t [] ∧ t.env.status = .ok ∧ t.env.reply = .none

/-- A store's whole effect: `blk[o]` is `v`, and every other byte and everything else is as before. -/
def StoresByte (s t : State) (o : Nat) (v : Byte) : Prop :=
  BlkOnly s t ∧ t.byteAt o = v ∧ (∀ off, off ≠ o → t.byteAt off = s.byteAt off) ∧ EndsQuietly s t

/-- R175 at one place: the word `TILE_PASS(k, b)` leaves at line `l`, column `TILE_W * c + px` where `old` stood (a pixel the row does
not hold: log 32). -/
def State.tileOver (s : State) (b c l px : Nat) (old : Half) : Half :=
  let off := s.tatAt b c
  let t := s.byteAt (s.cfg.geo.vramOff + off)
  let g := s.byteAt (s.cfg.geo.cramOff + off) &&& s.cfg.spr.colorMask
  let row := s.load.tileRow s.cfg t.toNat l
  let p := if px < 8 then row.extractLsb' (2 * px) 2 else Config.noTilePixel row px
  if p = 0#2 then old else s.palxAt g.toNat p.toNat

/-- R200 at one place and for one sprite, without the overlap test: the word left at line `l`, column `x` of band `b`
where `old` stood. -/
def State.spriteOver (s : State) (b l x : Nat) (old : Half) (sp : Sprite) : Half :=
  let sr : Int := (s.cfg.geo.bandLines * b + l : Nat) - sp.y.toInt
  let c : Int := x - sp.x.toInt
  let p := (s.load.spriteRow s.cfg sp.flip.toNat sp.code.toNat sr.toNat).extractLsb' (2 * c.toNat) 2
  if 0 ≤ sr ∧ sr < s.cfg.spr.sprH ∧ 0 ≤ c ∧ c < s.cfg.spr.sprW ∧ p ≠ 0#2 then s.palxAt sp.color.toNat p.toNat else old

/-- R200: the word `SPRITE_PASS` leaves where `old` stood, the sprites of `ASL` drawn in list order. -/
def State.spritesOver (s : State) (b l x : Nat) (old : Half) : Half := s.video.asl.foldl (s.spriteOver b l x) old

/-- The mask of R204 for a sprite at `x` on a screen of width `w`. -/
def spriteMask (w x : Int) : Word :=
  let m : Word := 0xFFFFFFFF#32
  let m := if -16 < x ∧ x < 0 then m &&& ~~~(BitVec.ofNat 32 (2 ^ (2 * (-x).toNat) - 1)) else m
  if w - 16 < x ∧ x < w then m &&& BitVec.ofNat 32 (2 ^ (2 * (w - x).toNat) - 1) else m

/-- The phase of voice `v` `n` samples later (R238). -/
def State.phaseAfter (s : State) (v : Fin 3) (n : Nat) : Nat :=
  ((s.voices[v]).phase + n * (s.voices[v]).freq.toNat) % 2 ^ s.cfg.wsg.phaseW

/-- R235 at the `n`-th sample from here: the sum of the three products `vol * WAVE(wave)[i]`. -/
def State.sumAfter (s : State) (n : Nat) : Int :=
  ((List.finRange 3).map fun v =>
    ((s.voices[v]).vol.toNat : Int) *
      waveSample s.cfg s.load (s.voices[v]).wave
        ((s.phaseAfter v n >>> s.cfg.wsg.phaseShift) &&& s.cfg.wsg.idxMask)).sum

/-- DISP completes its transfers at once, the cutscene does not linger, and nobody presents anything: ORCH runs freely. -/
def FreeRunning (s : State) : Prop :=
  s.env.inputs = [] ∧ s.env.platform.dispDone = true ∧ s.env.platform.cut ≠ .playing

end Sys2Proof.Machine
end

