-- ==== Sys2Proof/Certificates/Slice0/Obligations.lean ====
section
/-! DEFINITION. The statements for the provers, in the order of OBLIGATIONS.json. -/

open Sys2Proof Sys2Proof.Machine

/-! ### Encoding -/

/-- Words of 95_test_vectors.md V-DEC, one of every family, decode to the transaction they stand for (30_encoding.md R102
to R107). -/
def Obligations.DecodesSpecWords : Prop :=
  decode p0 0x10003FFF#32 = some (.rdRom 0x3FFF#16) ∧ decode p0 0x10005040#32 = some .rdIn1 ∧
    decode p0 0x2085CFF0#32 = some (.wrSpra 0xCFF0#16 0x85#8) ∧ decode p0 0x2001D000#32 = some (.wrIe 0xD000#16 0x01#8) ∧
    decode p0 0x40CF1200#32 = some (.outVec 0x1200#16 0xCF#8) ∧ decode p0 0x50001FFF#32 = some (.ird 0x1FFF#16) ∧
    decode p0 0x80000000#32 = some .reset ∧ decode p0 0xF2000004#32 = some (.sndRender 4#16) ∧
    decode p0 0xF4000102#32 = some (.bandRender 1#8 2#8) ∧ decode p0 0xFC000024#32 = none

/-- Decoding the word of a well-formed transaction gives it back, under every parameter record. -/
def Obligations.DecodeOfEncode : Prop :=
  ∀ (c : Params) (i : Instr), i.wellFormed c = true → decode c (encode c i) = some i

/-- A word that decodes is the word of the transaction it decodes to, and that transaction is well formed. -/
def Obligations.EncodeOfDecode : Prop :=
  ∀ (c : Params) (w : Word) (i : Instr), decode c w = some i → encode c i = w ∧ i.wellFormed c = true

/-- The illegal words of 30_encoding.md R119 that are illegal whatever the state: exactly these do not decode (R108). -/
def Obligations.IllegalWordsExactly : Prop :=
  ∀ (c : Params) (cmd sub : BitVec 4) (data hi lo : Byte),
    decode c (cmd ++ sub ++ data ++ (hi ++ lo : Half)) = none ↔
      (cmd = 0x0#4 ∨ (0xA#4 ≤ cmd ∧ cmd ≤ 0xE#4)) ∨
      (cmd ≠ 0xF#4 ∧ sub ≠ 0#4) ∨
      (cmd ≠ 0x2#4 ∧ cmd ≠ 0x4#4 ∧ cmd ≠ 0x6#4 ∧ data ≠ 0#8) ∨
      ((cmd = 0x5#4 ∨ cmd = 0x6#4) ∧ c.map.blockSize ≤ 256 * hi.toNat + lo.toNat) ∨
      ((cmd = 0x7#4 ∨ cmd = 0x8#4 ∨ cmd = 0x9#4) ∧ (hi ≠ 0#8 ∨ lo ≠ 0#8)) ∨
      (cmd = 0xF#4 ∧ (sub = 0x4#4 ∨ sub = 0xC#4 ∨ sub = 0xD#4) ∧ (1 < hi.toNat ∨ c.nbands ≤ lo.toNat)) ∨
      (cmd = 0xF#4 ∧ sub ≠ 0x2#4 ∧ sub ≠ 0x4#4 ∧ sub ≠ 0xC#4 ∧ sub ≠ 0xD#4 ∧ (hi ≠ 0#8 ∨ lo ≠ 0#8))

/-- The CPU's maps at P0 (20_memory.md R71, R72, columns "P0 range"; 30_encoding.md R102, R103): the word of a read or of a
write at any address names the class of its range; a write's range is that of the address without its top line. -/
def Obligations.CpuMapsAtP0 : Prop :=
  ∀ (a : Half) (v : Byte),
    let rd := decode p0 (0x1#4 ++ 0x0#4 ++ 0x00#8 ++ a)
    let wr := decode p0 (0x2#4 ++ 0x0#4 ++ v ++ a)
    let n := a.toNat
    let m := a.toNat % 0x8000
    (n < 0x4000 → rd = some (.rdRom a)) ∧ (0x4000 ≤ n ∧ n < 0x5000 → rd = some (.rdBlk a)) ∧
    (n = 0x5000 → rd = some .rdIn0) ∧ (n = 0x5040 → rd = some .rdIn1) ∧ (n = 0x5080 → rd = some .rdDsw) ∧
    (0x5000 ≤ n ∧ n < 0x6000 ∧ n ≠ 0x5000 ∧ n ≠ 0x5040 ∧ n ≠ 0x5080 → rd = some (.rdIox a)) ∧
    (0x6000 ≤ n → rd = some (.rdNone a)) ∧
    (0x8000 ≤ n ∧ n < 0xA000 → decode p0ms (0x1#4 ++ 0x0#4 ++ 0x00#8 ++ a) = some (.rdAux a)) ∧
    (0x4FF0 ≤ m ∧ m < 0x5000 → wr = some (.wrSpra a v)) ∧ (0x5060 ≤ m ∧ m < 0x5070 → wr = some (.wrSprp a v)) ∧
    (m = 0x5000 → wr = some (.wrIe a v)) ∧ (0x5040 ≤ m ∧ m < 0x5060 → wr = some (.wrSnd a v)) ∧
    (0x4000 ≤ m ∧ m < 0x4FF0 ∨ 0x5001 ≤ m ∧ m < 0x5040 ∨ 0x5070 ≤ m ∧ m < 0x6000 → wr = some (.wrBlk a v)) ∧
    (m < 0x4000 ∨ 0x6000 ≤ m → wr = some (.wrNone a v))

/-! ### The step -/

/-- A step carries out the transaction the presented word decodes to, on behalf of the agent that presents it. -/
def Obligations.StepRunsPresentedWord : Prop :=
  ∀ (s : State) (w : Word) (i : Instr) (rest : List Input), decode s.cfg w = some i →
    (s.env.inputs = .host w :: rest → step s = exec i ((s.setInputs rest).setAgent .host)) ∧
    (s.env.inputs = .cpu w :: rest → step s = exec i ((s.setInputs rest).setAgent .cpu))

/-- When no word is presented, a step is ORCH's next phase transition (45_frame_orchestrator.md R261); a change of the
platform's levels (10_state.md R50) changes them and nothing else. That ORCH runs freely when nothing is presented is
the model's reading (log 6). -/
def Obligations.StepWithoutWord : Prop :=
  ∀ (s : State) (p : Platform) (rest : List Input),
    (s.env.inputs = [] → step s = orchStep s) ∧
    (s.env.inputs = .turn :: rest → step s = orchStep (s.setInputs rest)) ∧
    (s.env.inputs = .levels p :: rest →
      step s = .next { s with env := { s.env with inputs := rest, platform := p } })

/-- An illegal word is refused with the first code that applies (60_exceptions.md R348): `FAULTED`, then `BAD_PHASE` (its
class is closed to the agent, or no `RESET` has run, 70_reset_and_hazards.md R386), then `ILLEGAL_WORD`. That a word of a
reserved `CMD` belongs to no class is the model's reading (log 11). -/
def Obligations.StepRefusesIllegalWord : Prop :=
  ∀ (s : State) (w : Word) (a : Agent) (rest : List Input), decode s.cfg w = none →
    (a = .host ∧ s.env.inputs = .host w :: rest ∨ a = .cpu ∧ s.env.inputs = .cpu w :: rest) →
    ∃ t code, step s = .next t ∧ BlockSame s t ∧ t.env.status = .refused code ∧ t.env.mark = true ∧
      t.env.trace = s.env.trace ∧ t.env.inputs = rest ∧
      (s.orch.fault ≠ none → code = .faulted) ∧
      (s.orch.fault = none ∧ s.orch.phase = .reset → code = .badPhase) ∧
      (∀ c, cmdClassOf (w.extractLsb' 28 4) = some c → s.orch.fault = none → allowed c a s = false →
        code = .badPhase) ∧
      (∀ c, cmdClassOf (w.extractLsb' 28 4) = some c → s.orch.fault = none → s.orch.phase ≠ .reset →
        allowed c a s = true → code = .illegalWord) ∧
      (cmdClassOf (w.extractLsb' 28 4) = none → s.orch.fault = none → s.orch.phase ≠ .reset → code = .illegalWord)

/-- No operation of the block traps (60_exceptions.md R340): every step of every state gives a next state. That a refusal is a
next state too, so that no step stops the run, is the model's reading (log 10), and so is a wait that steps to itself (log
17). -/
def Obligations.StepAlwaysContinues : Prop := ∀ s : State, ∃ t, step s = .next t

/-! ### Refusals and access -/

/-- 60_exceptions.md R346: a refused transaction (one that returns a `Refused` status it did not find, or sets the refusal
mark) changed no state of the block, put nothing out, and left the mark set and a `Refused` status; no step clears the mark;
and a run with the mark set is a failed run. -/
def Obligations.RefusalChangesNothing : Prop :=
  (∀ (i : Instr) (s t : State), exec i s = .next t →
    (∃ code, t.env.status = .refused code ∧ s.env.status ≠ .refused code) ∨ (s.env.mark = false ∧ t.env.mark = true) →
    BlockSame s t ∧ t.env.trace = s.env.trace ∧ t.env.mark = true ∧ ∃ code, t.env.status = .refused code) ∧
  (∀ s t : State, step s = .next t → s.env.mark = true → t.env.mark = true) ∧
  (∀ s : State, s.env.mark = true → s.failed = true)

/-- Who may do what (60_exceptions.md R343, R348, R360): while `fault` is set nothing but `RESET` is admitted, and `FAULTED`
is reported before anything else; then a transaction its row of the access table does not give to the agent in the current
phase is refused with `BAD_PHASE`. Where a phase boundary lies (20_memory.md R82), the credit reset of ORCH in its cutscene, and
ORCH's `INT` operations in every phase of a tick are the model's reading of the table (logs 18, 25). -/
def Obligations.AccessByAgentAndPhase : Prop :=
  ∀ (i : Instr) (s : State),
    (s.orch.fault ≠ none → i ≠ .reset →
      ∃ t, exec i s = .next t ∧ BlockSame s t ∧ t.env.trace = s.env.trace ∧ t.env.status = .refused .faulted ∧
        t.env.mark = true) ∧
    (s.orch.fault = none →
      (cmdClass i = .bus ∧ ¬CpuReady s ∨ cmdClass i = .inspect ∧ ¬InspectReady s ∨ cmdClass i = .crst ∧ ¬CreditReady s ∨
        cmdClass i = .reset ∧ s.env.agent ≠ .host ∨ cmdClass i = .tick ∧ ¬TickReady s ∨
        cmdClass i = .int ∧ ¬IntReady s) →
      ∃ t, exec i s = .next t ∧ BlockSame s t ∧ t.env.trace = s.env.trace ∧ t.env.status = .refused .badPhase ∧
        t.env.mark = true)

/-- Which transactions write what (10_state.md R30 to R37, R43 to R52, R60 to R63; 44_wavetable_synth.md R230): every piece of
state is changed only by the transactions named beside it, in the step that presents them. What ORCH's later phase
transitions of a long operation (log 5) do is said by `FrameRunsAsWritten`, `TickRunsAsWritten` and `PhaseTransitions`. -/
def Obligations.OnlyNamedTransactionsWrite : Prop :=
  ∀ (i : Instr) (s t : State), exec i s = .next t →
    t.cfg = s.cfg ∧ t.load = s.load ∧
    (i = .reset ∨ cmdClass i = .crst ∨ (∃ a v, i = .wrSpra a v ∨ i = .wrSprp a v ∨ i = .wrIe a v ∨ i = .wrBlk a v) ∨
      (∃ o v, i = .iwr o v) ∨ BytesSame s t) ∧
    (i = .reset ∨ (∃ a v, i = .wrSnd a v) ∨ t.mio.snd = s.mio.snd) ∧
    (i = .reset ∨ (∃ p v, i = .outVec p v) ∨ t.mio.irqvec = s.mio.irqvec) ∧
    (i = .reset ∨ i = .inputSample ∨
      (t.mio.in0 = s.mio.in0 ∧ t.mio.in1 = s.mio.in1 ∧ t.tilt = s.tilt ∧ t.coin = s.coin)) ∧
    (i = .reset ∨ i = .sndParse ∨ (∃ n, i = .sndRender n) ∨ i = .audioRefill ∨ t.voices = s.voices) ∧
    (i = .reset ∨ i = .powerEval ∨ t.power = s.power) ∧
    (i = .reset ∨ i = .attract ∨ t.det = s.det) ∧
    (i = .reset ∨ i = .sprPrep ∨ t.video.asl = s.video.asl) ∧
    (i = .reset ∨ i = .tatBuild ∨ t.video.tat = s.video.tat) ∧
    (i = .reset ∨ i = .palBuild ∨ t.video.palx = s.video.palx) ∧
    (i = .reset ∨ i = .frameRender ∨ (∃ k b, i = .tilePass k b ∨ i = .spritePass k b ∨ i = .bandRender k b) ∨
      (t.video.buf0 = s.video.buf0 ∧ t.video.buf1 = s.video.buf1)) ∧
    (i = .reset ∨ i = .frameRender ∨ (∃ k b, i = .bandRender k b) ∨
      (t.video.owner0 = s.video.owner0 ∧ t.video.owner1 = s.video.owner1)) ∧
    (i = .reset ∨ t.video.dispBusy = s.video.dispBusy) ∧
    (i = .reset ∨ i = .tick ∨ i = .frameRender ∨ i = .cpuExec ∨ i = .attract ∨ i = .pace ∨
      t.orch.phase = s.orch.phase) ∧
    (i = .reset ∨ i = .frameRender ∨ t.orch.bandJ = s.orch.bandJ) ∧
    (i = .reset ∨ i = .tick ∨ t.orch.tickT0 = s.orch.tickT0) ∧
    (i = .reset ∨ t.orch.fault = s.orch.fault)

/-! ### The bus controller -/

/-- Every CPU read and port read completes, returns the byte its rule gives, and changes nothing (41_bus_controller.md R141
to R148, R162; 20_memory.md R80): `RD_ROM`, `RD_BLK`, `RD_IN0`, `RD_IN1`, `RD_DSW`, `RD_IOX`, `RD_AUX`, `RD_NONE`,
`IN_PORT`. -/
def Obligations.CpuReadsReturn : Prop :=
  ∀ (s : State) (a : Half), CpuReady s →
    (∃ t, exec (.rdRom a) s = .next t ∧ ReturnsByte s t (s.load.romByte a.toNat)) ∧
    (∃ t, exec (.rdBlk a) s = .next t ∧ ReturnsByte s t (s.byteAt (a.toNat - s.cfg.map.blockBase))) ∧
    (∃ t, exec .rdIn0 s = .next t ∧ ReturnsByte s t s.mio.in0) ∧
    (∃ t, exec .rdIn1 s = .next t ∧ ReturnsByte s t s.mio.in1) ∧
    (∃ t, exec .rdDsw s = .next t ∧ ReturnsByte s t s.cfg.map.dswValue) ∧
    (∃ t, exec (.rdIox a) s = .next t ∧ ReturnsByte s t s.cfg.map.unmapped) ∧
    (s.cfg.map.hasAux = true →
      ∃ t, exec (.rdAux a) s = .next t ∧
        ReturnsByte s t (s.load.romByte (a.toNat - s.cfg.map.auxBase + s.cfg.map.auxRomOff))) ∧
    (∃ t, exec (.rdNone a) s = .next t ∧ ReturnsByte s t s.cfg.map.unmapped) ∧
    (∃ t, exec (.inPort a) s = .next t ∧ ReturnsByte s t s.cfg.map.portRdValue)

/-- `WR_SPRA`, `WR_SPRP` and `WR_BLK` store the byte at `(a & WR_MASK) - BLOCK_BASE`, `WR_IE` its bit 0 at
`IE_ADDR - BLOCK_BASE`, which is then the enable (41_bus_controller.md R151, R152, R154, R156; 10_state.md R34); nothing
else changes. -/
def Obligations.CpuWritesStore : Prop :=
  ∀ (s : State) (a : Half) (v : Byte), CpuReady s → MemoryOk s →
    (∃ t, exec (.wrSpra a v) s = .next t ∧ StoresByte s t ((a &&& s.cfg.map.wrMask).toNat - s.cfg.map.blockBase) v) ∧
    (∃ t, exec (.wrSprp a v) s = .next t ∧ StoresByte s t ((a &&& s.cfg.map.wrMask).toNat - s.cfg.map.blockBase) v) ∧
    (∃ t, exec (.wrBlk a v) s = .next t ∧ StoresByte s t ((a &&& s.cfg.map.wrMask).toNat - s.cfg.map.blockBase) v) ∧
    (∃ t, exec (.wrIe a v) s = .next t ∧ StoresByte s t (s.cfg.map.ieAddr - s.cfg.map.blockBase) (v &&& 1#8) ∧
      t.ieEnabled = v.getLsbD 0)

/-- `WR_SND` stores the low four bits in the sound register of the masked address; `OUT_VEC` latches the vector; `WR_NONE`
and `OUT_NONE` change nothing (41_bus_controller.md R153, R155, R160, R161). No byte of `blk` changes. That there are `SND_SIZE`
sound registers is an invariant of every step (`StepKeepsRanges`). -/
def Obligations.CpuOtherWrites : Prop :=
  ∀ (s : State) (a : Half) (v : Byte), CpuReady s → s.mio.snd.length = s.cfg.map.sndSize →
    (s.cfg.map.sndBase ≤ (a &&& s.cfg.map.wrMask).toNat ∧
        (a &&& s.cfg.map.wrMask).toNat < s.cfg.map.sndBase + s.cfg.map.sndSize →
      ∃ t, exec (.wrSnd a v) s = .next t ∧ BytesSame s t ∧ EndsQuietly s t ∧
        t = { s with mio := { s.mio with snd := t.mio.snd }, env := t.env } ∧
        ∀ r : Nat, t.sndAt r =
          if r = (a &&& s.cfg.map.wrMask).toNat - s.cfg.map.sndBase then v &&& 0x0F#8 else s.sndAt r) ∧
    (∃ t, exec (.outVec a v) s = .next t ∧ BytesSame s t ∧ EndsQuietly s t ∧
      t = { s with mio := { s.mio with irqvec := v }, env := t.env }) ∧
    (∃ t, exec (.wrNone a v) s = .next t ∧ BlockSame s t ∧ EndsQuietly s t) ∧
    (∃ t, exec (.outNone a v) s = .next t ∧ BlockSame s t ∧ EndsQuietly s t)

/-- 20_memory.md R74: with the top address line masked a write to `a` and one to `a + 0x8000` do the same, in every state;
a read is not masked (the consequences at P0 and P0-MS). -/
def Obligations.WritesAreMaskedReadsAreNot : Prop :=
  (∀ (s : State) (a : Half) (v : Byte), s.cfg.map.wrMask = 0x7FFF#16 →
    exec (decodeWrite s.cfg (a + 0x8000#16) v) s = exec (decodeWrite s.cfg a v) s) ∧
  (∀ (a : Half) (v : Byte), 0xC000 ≤ a.toNat → a.toNat < 0xE000 →
    decodeRead p0 a = .rdNone a ∧ decodeWrite p0 a v ≠ .wrNone a v) ∧
  (∀ (a : Half) (v : Byte), 0x8000 ≤ a.toNat → a.toNat < 0xA000 →
    decodeRead p0ms a = .rdAux a ∧ decodeWrite p0ms a v = .wrNone a v)

/-! ### Inspection and reset -/

/-- `IRD` returns a byte of `blk` and `IWR` stores one, raw, at any offset below `BLOCK_SIZE`; beyond it both are illegal
words (45_frame_orchestrator.md R290, R291). Which states are phase boundaries (20_memory.md R82) is read by the model: not in
a wait for a transfer that goes on, in a cutscene that is not over, or in a pacing sleep (log 18). -/
def Obligations.InspectionAccess : Prop :=
  ∀ (s : State) (off : Half) (v : Byte), InspectReady s →
    (off.toNat < s.cfg.map.blockSize →
      (∃ t, exec (.ird off) s = .next t ∧ ReturnsByte s t (s.byteAt off.toNat)) ∧
      (MemoryOk s → ∃ t, exec (.iwr off v) s = .next t ∧ StoresByte s t off.toNat v)) ∧
    (s.cfg.map.blockSize ≤ off.toNat → ∀ i : Instr, i = .ird off ∨ i = .iwr off v →
      ∃ t, exec i s = .next t ∧ BlockSame s t ∧ t.env.trace = s.env.trace ∧ t.env.status = .refused .illegalWord)

/-- `CRST` zeroes the two credit bytes and nothing else (45_frame_orchestrator.md R292). When HOST is at a phase boundary, and that
ORCH performs it in its cutscene too, is the model's reading of 60_exceptions.md R360 (log 18). -/
def Obligations.CreditReset : Prop :=
  ∀ s : State, CreditReady s → MemoryOk s →
    ∃ t, exec .crst s = .next t ∧ BlkOnly s t ∧ EndsQuietly s t ∧
      t.byteAt s.cfg.orch.creditOffA = 0#8 ∧ t.byteAt s.cfg.orch.creditOffB = 0#8 ∧
      ∀ off, off ≠ s.cfg.orch.creditOffA → off ≠ s.cfg.orch.creditOffB → t.byteAt off = s.byteAt off

/-- A successful `RESET` leaves every value 10_state.md R65 gives, with both tables built, the boot calls made in order and
the launch's tables kept (70_reset_and_hazards.md R380, R383, R384). Nothing is said of `BUF` and `tick_t0`, which R65 leaves
unspecified, nor of `blk` and `snd` under `ARBITRARY`, but that a sound register is below 16. -/
def Obligations.ResetLeaves : Prop :=
  ∀ s : State, s.env.agent = .host → paramsOk s.cfg = true → s.load.loaded s.cfg = true →
    allocFailure s.env.platform = none →
    ∃ t, exec .reset s = .next t ∧
      t.cfg = s.cfg ∧ t.load = s.load ∧
      (s.cfg.map.resetFill = .zero → (∀ off, t.byteAt off = 0#8) ∧ ∀ r, t.sndAt r = 0#8) ∧
      t.mio.snd.length = s.cfg.map.sndSize ∧ (∀ r, (t.sndAt r).toNat < 16) ∧
      t.mio.irqvec = 0#8 ∧ t.mio.in0 = 0xFF#8 ∧ t.mio.in1 = 0xFF#8 ∧
      (∀ v : Fin 3, t.voices[v] = { phase := 0, freq := 0#20, wave := .silent, vol := 0#4 }) ∧
      t.video.asl = [] ∧ t.video.owner0 = .free ∧ t.video.owner1 = .free ∧ t.video.dispBusy = false ∧
      (∀ r q, r < s.cfg.geo.nrows → q < s.cfg.geo.ncols → (t.tatAt r q : Int) = tas s.cfg.geo r q) ∧
      (∀ g e, g < s.cfg.ngroups → e < s.cfg.spr.groupLen →
        t.palxAt g e = palTransform s.cfg.spr.palXform (s.load.palEntry s.cfg g e)) ∧
      t.tilt = { up := false, down := false, left := false, right := false } ∧
      t.coin = { cs := .idle, csT := 0#32 } ∧
      t.power = { silentCnt := 0, ampOn := true, mutePrev := false, perf := .high, idleCnt := 0
                  backlight := s.cfg.orch.blFull } ∧
      t.det = { graceCnt := 0, prevMode := 0x00#8, played := false } ∧
      t.orch.phase = .tickStart ∧ t.orch.bandJ = 0 ∧ t.orch.fault = none ∧
      t.env.status = .ok ∧
      t.env.trace = s.env.trace ++
        [.dispFill s.cfg.spr.black, .dispSetBacklight s.cfg.orch.blFull, .audSetPower true, .cpuReset]

/-- When `RESET` does not succeed (70_reset_and_hazards.md R380, R382): `BAD_CONFIG` before `NOT_LOADED`; then the first
subsystem of MIO, SPC, WSG, ORCH that cannot be set up, with `fault` set, the phase `INIT_FAILED` and no call made. The record
is good exactly when the constraints of 00_scope.md R13 hold, and with them those that other rules put on the same record
(`SPR_W` of 43_sprite_compositor.md R190, the four of 44_wavetable_synth.md R232, `ADDR_W` of 20_memory.md R70), for which
`BAD_CONFIG` is the model's reading (log 15). -/
def Obligations.ResetFails : Prop :=
  (∀ c : Params, paramsOk c = true ↔
    (c.geo.tileH = c.geo.bandLines ∧ c.geo.topRows + c.geo.botRows ≤ c.geo.nrows ∧
      (∀ r q, r < c.geo.nrows → q < c.geo.ncols →
        0 ≤ tas c.geo r q ∧ tas c.geo r q < (c.geo.cramOff : Int) - c.geo.vramOff) ∧
      (c.geo.cramOff : Int) + (c.geo.cramOff - c.geo.vramOff) ≤ c.map.blockSize ∧
      c.map.blockBase + c.map.blockSize ≤ 0x8000 ∧
      1 ≤ c.geo.bandCount ∧ c.geo.bandFirst + c.geo.bandCount ≤ c.nbands ∧
      c.spr.spraOff + 2 * c.spr.nsprites ≤ c.map.blockSize ∧ c.spr.sprpOff + 2 * c.spr.nsprites ≤ c.map.blockSize ∧
      c.wsg.nwaves = 16 ∧ c.orch.tiltOff < c.orch.tiltOn ∧ 0 ≤ c.orch.tiltOff ∧ 1 ≤ c.wsg.audioRefillBands ∧
      c.map.romWin ≤ c.map.romImageSize ∧
      (c.map.hasAux = true → c.map.auxRomOff + c.map.auxSize ≤ c.map.romImageSize)) ∧
    (c.spr.sprW = 16 ∧ c.wsg.nvoices = 3 ∧ c.wsg.waveLen = 32 ∧ c.wsg.idxMask + 1 = 32 ∧
      c.wsg.phaseShift + 5 = 18 ∧ 18 ≤ c.wsg.phaseW ∧ c.map.addrW = 16)) ∧
  ∀ s : State, s.env.agent = .host →
    (paramsOk s.cfg = false →
      ∃ t, exec .reset s = .next t ∧ BlockSame s t ∧ t.env.status = .refused .badConfig ∧ t.env.trace = s.env.trace) ∧
    (paramsOk s.cfg = true → s.load.loaded s.cfg = false →
      ∃ t, exec .reset s = .next t ∧ BlockSame s t ∧ t.env.status = .refused .notLoaded ∧ t.env.trace = s.env.trace) ∧
    (paramsOk s.cfg = true → s.load.loaded s.cfg = true →
      let p := s.env.platform
      ∀ sub : Subsystem,
        (sub = .mio ∧ p.allocMio = false ∨ sub = .spc ∧ p.allocMio = true ∧ p.allocSpc = false ∨
          sub = .wsg ∧ p.allocMio = true ∧ p.allocSpc = true ∧ p.allocWsg = false ∨
          sub = .orch ∧ p.allocMio = true ∧ p.allocSpc = true ∧ p.allocWsg = true ∧ p.allocOrch = false) →
        ∃ t, exec .reset s = .next t ∧ t.orch.fault = some sub ∧ t.orch.phase = .initFailed ∧
          t.env.status = .initFail sub ∧ t.env.trace = s.env.trace ∧ t.cfg = s.cfg ∧ t.load = s.load)

/-- The machine starts at power-up (70_reset_and_hazards.md R381): phase `RESET`, no table built, no call made, every element at
its value of 10_state.md R65, and nothing but `RESET` admitted (R386). The first `RESET` that HOST presents builds the tables,
makes the boot calls of R384 and leaves ORCH in `TICK_START`, with those values. That power-up holds the values of R65
already, before any rule reads them, and that the launch is P0 with blank tables, is the model's choice (logs 1, 2, 7, 8). -/
def Obligations.StartsAsAfterReset : Prop :=
  let s := State.reset
  s.cfg = p0 ∧ (∀ off, s.byteAt off = 0#8) ∧ (∀ r, s.sndAt r = 0#8) ∧ s.mio.irqvec = 0#8 ∧ s.mio.in0 = 0xFF#8 ∧
    s.mio.in1 = 0xFF#8 ∧ (∀ v : Fin 3, s.voices[v] = { phase := 0, freq := 0#20, wave := .silent, vol := 0#4 }) ∧
    s.video.asl = [] ∧ s.video.owner0 = .free ∧ s.video.owner1 = .free ∧ s.video.dispBusy = false ∧
    s.video.tat = none ∧ s.video.palx = none ∧
    s.tilt = { up := false, down := false, left := false, right := false } ∧ s.coin = { cs := .idle, csT := 0#32 } ∧
    s.power = { silentCnt := 0, ampOn := true, mutePrev := false, perf := .high, idleCnt := 0, backlight := 255#8 } ∧
    s.det = { graceCnt := 0, prevMode := 0x00#8, played := false } ∧ s.orch.phase = .reset ∧ s.orch.bandJ = 0 ∧
    s.orch.fault = none ∧ s.failed = false ∧ s.env.trace = [] ∧
    (∀ (i : Instr) (a : Agent), i ≠ .reset →
      ∃ t, exec i (s.setAgent a) = .next t ∧ BlockSame s t ∧ t.env.status = .refused .badPhase) ∧
    ∃ t, step (s.setInputs [.host 0x80000000#32]) = .next t ∧ t.env.status = .ok ∧ t.failed = false ∧
      t.env.trace = [.dispFill 0#16, .dispSetBacklight 255#8, .audSetPower true, .cpuReset] ∧
      t.orch.phase = .tickStart ∧ t.orch.bandJ = 0 ∧ t.mio = s.mio ∧ t.voices = s.voices ∧ t.tilt = s.tilt ∧
      t.coin = s.coin ∧ t.power = s.power ∧ t.det = s.det ∧ t.video.asl = [] ∧ t.video.owner0 = .free ∧
      t.video.owner1 = .free ∧ t.video.dispBusy = false ∧ t.notBuilt = false ∧
      (∀ r q, r < 36 → q < 28 → (t.tatAt r q : Int) = tas p0.geo r q) ∧ t.tatAt 0 0 = 0x3DD ∧ t.tatAt 2 0 = 0x3A0

/-- The invariants the steps keep hold in the state the machine starts in. -/
def Obligations.InvariantsAtReset : Prop :=
  MemoryOk State.reset ∧ SoundOk State.reset ∧ TiltOk State.reset ∧ CountersOk State.reset ∧ VoicesOk State.reset ∧
    SpritesOk State.reset ∧ BandsOk State.reset ∧ FaultOk State.reset ∧ BuiltOk State.reset ∧ DisplayOk State.reset

/-! ### The renderer -/

/-- `TAT_BUILD` fills the table with the three formulas of 42_tile_scrambler.md R171 and changes nothing else (R170). -/
def Obligations.TatBuild : Prop :=
  ∀ s : State, IntReady s →
    ∃ t, exec .tatBuild s = .next t ∧ VideoOnly s t ∧ PutsOut s t [] ∧ EndsWith s t .ok ∧
      t.video = { s.video with tat := t.video.tat } ∧ t.video.tat.isSome = true ∧
      (tasInRange s.cfg.geo = true → ∀ r q, r < s.cfg.geo.nrows → q < s.cfg.geo.ncols →
        let g := s.cfg.geo
        (t.tatAt r q : Int) =
          if r < g.topRows then g.tasTopBase + g.tasStride * r - q
          else if g.nrows - g.botRows ≤ r then g.tasBotBase + g.tasStride * ((r : Int) - ((g.nrows - g.botRows : Nat) : Int)) - q
          else g.tasMainBase + ((r : Int) - (g.topRows : Int)) - g.tasStride * q)

/-- 42_tile_scrambler.md R172 at P0: the three ranges, that `tas` is injective, and that it takes every offset of Video RAM
but the sixteen listed. -/
def Obligations.ScrambleRangesAndInjective : Prop :=
  (∀ r q, r < 36 → q < 28 →
    (r < 2 → 0x3C2 ≤ tas p0Geo r q ∧ tas p0Geo r q ≤ 0x3FD) ∧
    (34 ≤ r → 0x002 ≤ tas p0Geo r q ∧ tas p0Geo r q ≤ 0x03D) ∧
    (2 ≤ r ∧ r < 34 → 0x040 ≤ tas p0Geo r q ∧ tas p0Geo r q ≤ 0x3BF)) ∧
  (∀ r q r' q', r < 36 → q < 28 → r' < 36 → q' < 28 → tas p0Geo r q = tas p0Geo r' q' → r = r' ∧ q = q') ∧
  (∀ v : Nat, v < 0x400 →
    ((∃ r q, r < 36 ∧ q < 28 ∧ tas p0Geo r q = v) ↔
      v ∉ [0x000, 0x001, 0x01E, 0x01F, 0x020, 0x021, 0x03E, 0x03F, 0x3C0, 0x3C1, 0x3DE, 0x3DF, 0x3E0, 0x3E1, 0x3FE,
        0x3FF]))

/-- `PAL_BUILD` caches every palette entry, its bytes swapped under `SWAP16`, and changes nothing else; without a palette of
its shape it is refused (42_tile_scrambler.md R174, 10_state.md R43). -/
def Obligations.PalBuild : Prop :=
  ∀ s : State, IntReady s →
    (s.load.pal.hasShape [s.cfg.ngroups, s.cfg.spr.groupLen] = true →
      ∃ t, exec .palBuild s = .next t ∧ VideoOnly s t ∧ PutsOut s t [] ∧ EndsWith s t .ok ∧
        t.video = { s.video with palx := t.video.palx } ∧ t.video.palx.isSome = true ∧
        ∀ g e, g < s.cfg.ngroups → e < s.cfg.spr.groupLen →
          let v := s.load.palEntry s.cfg g e
          (s.cfg.spr.palXform = .swap16 → (t.palxAt g e).toNat = 256 * (v.toNat % 256) + v.toNat / 256) ∧
          (s.cfg.spr.palXform = .identity → t.palxAt g e = v)) ∧
    (s.load.pal.hasShape [s.cfg.ngroups, s.cfg.spr.groupLen] = false →
      ∃ t, exec .palBuild s = .next t ∧ BlockSame s t ∧ t.env.status = .refused .notLoaded)

/-- 43_sprite_compositor.md R193: the test holds exactly when the sprite's box meets the screen; and its bounds at P0. -/
def Obligations.VisibleMeetsScreen : Prop :=
  (∀ (c : Params) (x y : Int), 0 < c.spr.sprW → 0 < c.spr.sprH → 0 < c.width → 0 < c.height →
    (visible c x y = true ↔
      ∃ px py : Int, x ≤ px ∧ px < x + c.spr.sprW ∧ y ≤ py ∧ py < y + c.spr.sprH ∧
        0 ≤ px ∧ px < c.width ∧ 0 ≤ py ∧ py < c.height)) ∧
  (∀ (c : Params) (x y : Int),
    visible c x y = true ↔ -(c.spr.sprW : Int) < x ∧ x < c.width ∧ -(c.spr.sprH : Int) < y ∧ y < c.height) ∧
  (∀ x y : Int, visible p0 x y = true ↔ -16 < x ∧ x < 224 ∧ -16 < y ∧ y < 288)

/-- `SPR_PREP` (43_sprite_compositor.md R191, R192): the list is that of the slots whose code is valid and whose box is on the
screen, each once, in strictly descending order, every descriptor's fields taken from the slot's four attribute bytes;
nothing else changes. A coordinate outside the 16-bit range of 10_state.md R45, which no rule gives a value, is a free value
(log 26). -/
def Obligations.SpritePreparation : Prop :=
  ∀ s : State, IntReady s →
    ∃ t, exec .sprPrep s = .next t ∧ VideoOnly s t ∧ PutsOut s t [] ∧ EndsWith s t .ok ∧
      t.video = { s.video with asl := t.video.asl } ∧
      let codes : Nat → Nat := fun i => (s.byteAt (s.cfg.spr.spraOff + 2 * i)).toNat
      let x : Nat → Int := fun i => s.cfg.spr.sprXBias - (s.byteAt (s.cfg.spr.sprpOff + 2 * i)).toNat
      let y : Nat → Int := fun i => s.cfg.spr.sprYBias - (s.byteAt (s.cfg.spr.sprpOff + 2 * i + 1)).toNat
      ∃ (kept : List Nat) (d : Nat → Sprite), t.video.asl = kept.map d ∧ kept.Pairwise (· > ·) ∧
        (∀ i, i ∈ kept ↔
          i < s.cfg.spr.nsprites ∧ codes i / 4 < s.cfg.spr.sprCodeLimit ∧ visible s.cfg (x i) (y i) = true) ∧
        ∀ i, (d i).code.toNat = codes i / 4 ∧ (d i).flip.toNat = codes i % 4 ∧
          (d i).color = s.byteAt (s.cfg.spr.spraOff + 2 * i + 1) &&& s.cfg.spr.colorMask ∧
          (-32768 ≤ x i → x i ≤ 32767 → (d i).x.toInt = x i) ∧ (-32768 ≤ y i → y i ≤ 32767 → (d i).y.toInt = y i)

/-- `TILE_PASS` writes, over what stood there, the pixel of the tile that covers the place (42_tile_scrambler.md R175, R176);
the other buffer and everything else stay. A pixel, a tile or a colour that the record's tables do not have is a free value (logs
31, 32, 33). -/
def Obligations.TilePass : Prop :=
  ∀ (s : State) (k b : Byte), IntReady s → BandsOk s → s.cfg.geo.tileH = s.cfg.geo.bandLines →
    k.toNat ≤ 1 → b.toNat < s.cfg.nbands → s.notBuilt = false → s.owner k.toNat ≠ .inflight →
    ∃ t, exec (.tilePass k b) s = .next t ∧ BuffersOnly s t ∧ PutsOut s t [] ∧ EndsWith s t .ok ∧
      (∀ j, j ≤ 1 → j ≠ k.toNat → t.band j = s.band j) ∧
      ∀ q l px, q < s.cfg.geo.ncols → l < s.cfg.geo.tileH → px < s.cfg.geo.tileW →
        t.pixel k.toNat l (s.cfg.geo.tileW * q + px) =
          s.tileOver b.toNat q l px (s.pixel k.toNat l (s.cfg.geo.tileW * q + px))

/-- `SPRITE_PASS` draws the sprites of `ASL` in list order, each over what is there, clipped to the band and the screen
(43_sprite_compositor.md R200); the other buffer and everything else stay. It does not need `TAT`. A flip variant or a colour that the record's
tables do not have is a free value (logs 31, 33). -/
def Obligations.SpritePass : Prop :=
  ∀ (s : State) (k b : Byte), IntReady s → BandsOk s →
    k.toNat ≤ 1 → b.toNat < s.cfg.nbands → s.video.palx.isSome = true → s.owner k.toNat ≠ .inflight →
    ∃ t, exec (.spritePass k b) s = .next t ∧ BuffersOnly s t ∧ PutsOut s t [] ∧ EndsWith s t .ok ∧
      (∀ j, j ≤ 1 → j ≠ k.toNat → t.band j = s.band j) ∧
      ∀ l x, l < s.cfg.geo.bandLines → x < s.cfg.width →
        t.pixel k.toNat l x = s.spritesOver b.toNat l x (s.pixel k.toNat l x)

/-- `BAND_RENDER` (43_sprite_compositor.md R210, R194): the band is the sprites over the tiles over `BLACK`, whatever the
buffer held; its owner becomes `RENDER`; the other buffer and everything else stay. What the record's tables do not have is a
free value (logs 31, 32, 33). -/
def Obligations.BandRender : Prop :=
  ∀ (s : State) (k b : Byte), IntReady s → s.cfg.geo.tileH = s.cfg.geo.bandLines →
    k.toNat ≤ 1 → b.toNat < s.cfg.nbands → s.notBuilt = false → s.owner k.toNat ≠ .inflight →
    ∃ t, exec (.bandRender k b) s = .next t ∧ VideoOnly s t ∧ PutsOut s t [] ∧ EndsWith s t .ok ∧
      t.video.tat = s.video.tat ∧ t.video.palx = s.video.palx ∧ t.video.asl = s.video.asl ∧
      t.video.dispBusy = s.video.dispBusy ∧ t.owner k.toNat = .render ∧
      (∀ j, j ≤ 1 → j ≠ k.toNat → t.band j = s.band j ∧ t.owner j = s.owner j) ∧
      ∀ q l px, q < s.cfg.geo.ncols → l < s.cfg.geo.tileH → px < s.cfg.geo.tileW →
        t.pixel k.toNat l (s.cfg.geo.tileW * q + px) =
          s.spritesOver b.toNat l (s.cfg.geo.tileW * q + px) (s.tileOver b.toNat q l px s.cfg.spr.black)

/-- The refusals of the band operations, in the order of 60_exceptions.md R348 (42_tile_scrambler.md R175,
43_sprite_compositor.md R200, R210; 70_reset_and_hazards.md R402): operands, tables, a buffer in flight. -/
def Obligations.BandRefusals : Prop :=
  ∀ (s : State) (k b : Byte) (i : Instr) (missing : Bool), IntReady s →
    (i = .tilePass k b ∧ missing = s.notBuilt ∨ i = .spritePass k b ∧ missing = s.video.palx.isNone ∨
      i = .bandRender k b ∧ missing = s.notBuilt) →
    ∀ code : RefusalCode,
      ((1 < k.toNat ∨ s.cfg.nbands ≤ b.toNat) ∧ code = .illegalWord ∨
        k.toNat ≤ 1 ∧ b.toNat < s.cfg.nbands ∧ missing = true ∧ code = .notBuilt ∨
        k.toNat ≤ 1 ∧ b.toNat < s.cfg.nbands ∧ missing = false ∧ s.owner k.toNat = .inflight ∧
          code = .bufferInflight) →
      ∃ t, exec i s = .next t ∧ BlockSame s t ∧ t.env.trace = s.env.trace ∧ t.env.status = .refused code

/-- 43_sprite_compositor.md R204: the mask keeps exactly the pixels whose screen column exists, and a sprite pixel is
drawn exactly where the masked row is not 0. -/
def Obligations.SpriteMask : Prop :=
  (∀ (row : Word) (w x : Int) (k : Nat), k < 16 → -16 < x → x < w →
    pixelOf (row &&& spriteMask w x) k = if 0 ≤ x + k ∧ x + k < w then pixelOf row k else 0#2) ∧
  (∀ (s : State) (sp : Sprite) (b l x k : Nat), s.cfg.spr.sprW = 16 → k < 16 → -16 < sp.x.toInt → sp.x.toInt < s.cfg.width →
    (x : Int) = sp.x.toInt + k → l < s.cfg.geo.bandLines →
    let sr : Int := (s.cfg.geo.bandLines * b + l : Nat) - sp.y.toInt
    0 ≤ sr → sr < s.cfg.spr.sprH →
    let row := s.load.spriteRow s.cfg sp.flip.toNat sp.code.toNat sr.toNat
    ((s.spritePixel sp b l x).isSome = true ↔ pixelOf (row &&& spriteMask s.cfg.width sp.x.toInt) k ≠ 0#2))

/-- 43_sprite_compositor.md R203: for a sprite that overlaps the band, between 1 and `BAND_LINES` lines are written, and
they are the lines from `start` on. -/
def Obligations.SpriteLines : Prop :=
  ∀ (c : Params) (sp : Sprite) (b : Nat), 0 < c.spr.sprH → 0 < c.geo.bandLines → overlapsBand c sp b = true →
    let top : Int := (c.geo.bandLines * b : Nat)
    let y := sp.y.toInt
    let start : Int := max 0 (y - top)
    let count : Int := min (top + c.geo.bandLines) (y + c.spr.sprH) - max top y
    1 ≤ count ∧ count ≤ c.geo.bandLines ∧ top + start - y = max 0 (top - y) ∧
    ∀ l : Nat, l < c.geo.bandLines →
      ((0 ≤ top + l - y ∧ top + l - y < c.spr.sprH) ↔ start ≤ l ∧ (l : Int) < start + count)

/-- 43_sprite_compositor.md R194: where the sprite that is drawn last (the lowest slot) has a pixel that is not transparent,
that pixel is the one left, whatever tiles and sprites are under it. -/
def Obligations.LowestSlotWins : Prop :=
  ∀ (s : State) (b l x : Nat) (old : Half) (rest : List Sprite) (sp : Sprite) (w : Half),
    s.video.asl = rest ++ [sp] → l < s.cfg.geo.bandLines → x < s.cfg.width → s.spritePixel sp b l x = some w →
    s.spritesOver b l x old = w

/-! ### Frames -/

/-- `FRAME_RENDER` presented (43_sprite_compositor.md R213): it is refused without the tables, then with a transfer
unobserved; else the first band is rendered into buffer 0 as `BAND_RENDER` does, and ORCH carries the frame on. That HOST's
frame comes back to `TICK_START` is the model's reading (log 12). -/
def Obligations.FrameRenderBegins : Prop :=
  ∀ s : State, IntReady s →
    (s.notBuilt = true →
      ∃ t, exec .frameRender s = .next t ∧ BlockSame s t ∧ t.env.status = .refused .notBuilt) ∧
    (s.notBuilt = false → s.video.dispBusy = true →
      ∃ t, exec .frameRender s = .next t ∧ BlockSame s t ∧ t.env.status = .refused .bufferInflight) ∧
    (s.notBuilt = false → s.video.dispBusy = false →
      ∃ t, exec .frameRender s = .next t ∧ PutsOut s t [] ∧ BytesSame s t ∧
        t = { s with
          video := { s.video with buf0 := (s.renderBand 0 s.cfg.geo.bandFirst).video.buf0, owner0 := .render }
          orch := { s.orch with phase := .bandRender, bandJ := 0, hostOp := t.orch.hostOp }
          env := t.env } ∧
        (s.env.agent = .host → t.orch.hostOp = true ∧ t.env.st = []))

/-- HOST's `FRAME_RENDER` with a prompt DISP and nobody presenting anything runs, phase by phase, to the end of the
straight-line pseudocode of 43_sprite_compositor.md R213. Its steps are the model's reading (logs 5, 6, 12). -/
def Obligations.FrameRunsAsWritten : Prop :=
  ∀ s : State, IntReady s → s.env.agent = .host → FreeRunning s → s.notBuilt = false → s.video.dispBusy = false →
    1 ≤ s.cfg.geo.bandCount →
    ∃ t n, exec .frameRender s = .next t ∧
      Host.Core.run core n t = .next ((s.begin.setHostOp true).frameWhole).backToTickStart

/-- The calls of one frame, band by band (43_sprite_compositor.md R211 to R217, 44_wavetable_synth.md R240): before every band
but the first a wait, then the window, then the write of the band's words, row by row, which are those `BAND_RENDER` leaves
in `BUF[j mod 2]`; after every `AUDIO_REFILL_BANDS`-th band one slice of samples, from where the slice before it ended; at
the end one more wait. Nothing else is put out, and no transfer is left in flight. -/
def Obligations.FrameCalls : Prop :=
  ∀ s : State, 1 ≤ s.cfg.geo.bandCount → 1 ≤ s.cfg.wsg.audioRefillBands →
    let g := s.cfg.geo
    let slice := s.cfg.wsg.audioSlice
    let every := s.cfg.wsg.audioRefillBands
    let rendered : Nat → State := fun j => s.renderBand (j % 2) (g.bandFirst + j)
    let words : Nat → List Half := fun j => ((rendered j).band (j % 2)).flatten
    let refill : Nat → Obs := fun j =>
      .audTransmit (renderOut s.cfg s.load slice (renderVoices s.cfg.wsg (slice * ((j + 1) / every - 1)) s.voices)) slice
        s.env.platform.audRoom
    let calls : Nat → List Obs := fun j =>
      (if 0 < j then [.dispWait] else []) ++
        [.dispSetWindow g.hOffset (g.bandLines * j) s.cfg.width g.bandLines,
          .dispWrite (s.cfg.spr.palXform == .swap16) (words j) (g.bandLines * s.cfg.width)] ++
        (if (j + 1) % every = 0 then [refill j] else [])
    s.frameWhole.env.trace = s.env.trace ++ ((List.range g.bandCount).flatMap calls ++ [.dispWait]) ∧
      s.frameWhole.video.dispBusy = false ∧
      ((List.range g.bandCount).countP fun j => (j + 1) % every = 0) = g.bandCount / every ∧
      ∀ j l x, l < g.bandLines → x < s.cfg.width →
        (words j).length = g.bandLines * s.cfg.width ∧
          (words j).getD (s.cfg.width * l + x) 0#16 = (rendered j).pixel (j % 2) l x

/-! ### The synthesizer -/

/-- `SND_PARSE` (44_wavetable_synth.md R233, R234; 30_encoding.md R111 at P0): volume, frequency and waveform of every voice
from the sound registers, a voice of volume 0 silenced, the phases kept; nothing else changes. A register that a record with a
smaller file does not have is a free value (log 34). -/
def Obligations.SoundParse : Prop :=
  ∀ s : State, IntReady s → s.cfg.wsg = p0Wsg →
    let n : Nat → Nat := fun i =>
      if i < s.cfg.map.sndSize then (s.sndAt i).toNat % 16 else (Config.noNibble i).toNat
    ∃ t, exec .sndParse s = .next t ∧ VoicesOnly s t ∧ PutsOut s t [] ∧ EndsWith s t .ok ∧
      (∀ v : Fin 3, (t.voices[v]).phase = (s.voices[v]).phase) ∧
      (∀ (v : Fin 3) (vol wave f : Nat),
        v = 0 ∧ vol = 0x15 ∧ wave = 0x05 ∧ f = n 0x10 + 16 * n 0x11 + 256 * n 0x12 + 4096 * n 0x13 + 65536 * n 0x14 ∨
        v = 1 ∧ vol = 0x1A ∧ wave = 0x0A ∧ f = 16 * n 0x16 + 256 * n 0x17 + 4096 * n 0x18 + 65536 * n 0x19 ∨
        v = 2 ∧ vol = 0x1F ∧ wave = 0x0F ∧ f = 16 * n 0x1B + 256 * n 0x1C + 4096 * n 0x1D + 65536 * n 0x1E →
        (t.voices[v]).vol.toNat = n vol ∧
        (n vol = 0 → (t.voices[v]).freq = 0#20 ∧ (t.voices[v]).wave = .silent) ∧
        (n vol ≠ 0 → (t.voices[v]).freq.toNat = f ∧ (t.voices[v]).wave = .wave (BitVec.ofNat 4 (n wave))))

/-- `SND_RENDER n` (44_wavetable_synth.md R235, R236, R238): `n` samples, the `i`-th computed from the phases advanced by
`i` times their frequency, and every phase advanced by `n` times its frequency; nothing else of the block changes. A sample whose
`out` is in `[0, 65535]` is `out`; outside, where no rule gives the `u16`, it is the same free value for the same `out` (log 29). -/
def Obligations.SoundRender : Prop :=
  ∀ (s : State) (n : Half), IntReady s → VoicesOk s →
    ∃ (t : State) (l : List Half), exec (.sndRender n) s = .next t ∧ VoicesOnly s t ∧
      PutsOut s t [.samplesTo l] ∧ EndsWith s t .ok ∧
      t.env.reply = .samples l ∧ l.length = n.toNat ∧
      (∀ i, i < n.toNat →
        let out := min s.cfg.wsg.clampHi (max s.cfg.wsg.clampLo (s.cfg.wsg.gain * s.sumAfter i)) + s.cfg.wsg.bias
        l.getD i 0#16 = toU16 out ∧ (0 ≤ out → out ≤ 65535 → ((l.getD i 0#16).toNat : Int) = out)) ∧
      ∀ v : Fin 3, t.voices[v] = { s.voices[v] with phase := s.phaseAfter v n.toNat }

/-- 44_wavetable_synth.md R237: the bounds of every step of the mix at P0; the sample is exact in 16 bits; a silent voice
contributes 0, and three silent voices give 0x8000. -/
def Obligations.MixStaysInRange : Prop :=
  ∀ (c : Params) (tables : LoadTables) (vs : Vector Voice 3), c.wsg = p0Wsg →
    (∀ v : Voice, -1920 ≤ voiceTerm c tables v ∧ voiceTerm c tables v ≤ 1905 ∧
      (v.wave = .silent → voiceTerm c tables v = 0)) ∧
    (-5760 ≤ mixSum c tables vs ∧ mixSum c tables vs ≤ 5715) ∧
    (-276480 ≤ 48 * mixSum c tables vs ∧ 48 * mixSum c tables vs ≤ 274320) ∧
    ((sampleOut c tables vs).toNat : Int) =
      min 32767 (max (-32768) (48 * mixSum c tables vs)) + 0x8000 ∧
    ((∀ v : Fin 3, (vs[v]).wave = .silent) → sampleOut c tables vs = 0x8000#16)

/-- 44_wavetable_synth.md R239: accumulators of any two widths of at least 18 bits, equal in bits `[17:0]`, give the same
samples. -/
def Obligations.SamplesDoNotDependOnPhaseWidth : Prop :=
  ∀ (c : Params) (w : Nat) (tables : LoadTables) (n : Nat) (vs us : Vector Voice 3),
    c.wsg.phaseShift = 13 → c.wsg.idxMask = 0x1F → 18 ≤ c.wsg.phaseW → 18 ≤ w →
    (∀ v : Fin 3, us[v] = { vs[v] with phase := (us[v]).phase } ∧ (us[v]).phase % 2 ^ 18 = (vs[v]).phase % 2 ^ 18) →
    renderOut { c with wsg := { c.wsg with phaseW := w } } tables n us = renderOut c tables n vs

/-- `AUDIO_REFILL` (44_wavetable_synth.md R240, R241): one slice is rendered and handed to AUD, the phases advance whether
AUD takes it or not, and a dropped slice is a status. -/
def Obligations.AudioRefill : Prop :=
  ∀ s : State, IntReady s →
    ∃ t, exec .audioRefill s = .next t ∧ VoicesOnly s t ∧
      t.voices = renderVoices s.cfg.wsg s.cfg.wsg.audioSlice s.voices ∧
      PutsOut s t [.audTransmit (renderOut s.cfg s.load s.cfg.wsg.audioSlice s.voices) s.cfg.wsg.audioSlice
        s.env.platform.audRoom] ∧
      (s.env.platform.audRoom = true → EndsWith s t .ok) ∧
      (s.env.platform.audRoom = false → EndsWith s t (.audioDropped s.cfg.wsg.audioSlice) ∧
        (s.env.agent = .orch → t.env.st = s.env.st ++ [.audioDropped s.cfg.wsg.audioSlice]))

/-! ### Input and power -/

/-- `INPUT_SAMPLE` (46_input_power.md R310, R311, R312): one step of the tilt mapper and of the coin sequencer, then both
ports, active low, from the new latches and the buttons of 30_encoding.md R113; nothing else changes. -/
def Obligations.InputSample : Prop :=
  ∀ s : State, IntReady s →
    ∃ t, exec .inputSample s = .next t ∧ InputsOnly s t ∧ PutsOut s t [] ∧ EndsWith s t .ok ∧
      let hb := s.env.platform.hb
      t.tilt = tiltStep s.cfg.orch s.env.platform.pitch s.env.platform.roll s.tilt ∧
      t.coin = coinStep s.cfg.orch (hb.getLsbD 6) s.env.platform.nowMs s.coin ∧
      (t.mio.in0.getLsbD 0 = !(hb.getLsbD 0 || t.tilt.up)) ∧
      (t.mio.in0.getLsbD 1 = !(hb.getLsbD 2 || t.tilt.left)) ∧
      (t.mio.in0.getLsbD 2 = !(hb.getLsbD 3 || t.tilt.right)) ∧
      (t.mio.in0.getLsbD 3 = !(hb.getLsbD 1 || t.tilt.down)) ∧
      (t.mio.in0.getLsbD 5 = !(hb.getLsbD 4 || t.coin.cs == .coinAsserted)) ∧
      (t.mio.in1.getLsbD 5 = !(hb.getLsbD 5 || t.coin.cs == .startAsserted)) ∧
      (∀ i, i = 4 ∨ i = 6 ∨ i = 7 → t.mio.in0.getLsbD i = true) ∧
      (∀ i, i < 8 → i ≠ 5 → t.mio.in1.getLsbD i = true)

/-- 46_input_power.md R300: the only transitions of the sequencer, each exactly on its condition, with `cs_t` the time of the
last one; otherwise nothing changes. The elapsed time wraps at 32 bits (R302). R303: while the trigger is held, whatever the
times, there is at most one coin and one start: a run never comes back to `Idle`, nor to the coin once that is over. -/
def Obligations.CoinSequencer : Prop :=
  (∀ (c : OrchParams) (trig : Bool) (now : Word) (q : CoinSeq),
    let el := (now.toNat + (2 ^ 32 - q.csT.toNat)) % 2 ^ 32
    let go : CoinState → Prop := fun p => coinStep c trig now q = { cs := p, csT := now }
    let stay := coinStep c trig now q = q
    (q.cs = .idle → (trig = true → go .coinAsserted) ∧ (trig = false → stay)) ∧
    (q.cs = .coinAsserted → (c.coinHoldMs ≤ el → go .coinReleased) ∧ (el < c.coinHoldMs → stay)) ∧
    (q.cs = .coinReleased → (c.startDelayMs ≤ el → go .startAsserted) ∧ (el < c.startDelayMs → stay)) ∧
    (q.cs = .startAsserted → (c.startHoldMs ≤ el → go .awaitRelease) ∧ (el < c.startHoldMs → stay)) ∧
    (q.cs = .awaitRelease → (trig = false → go .idle) ∧ (trig = true → stay))) ∧
  (∀ (c : OrchParams) (times : List Word) (q : CoinSeq), q.cs ≠ .idle →
    let run := times.foldl (fun q now => coinStep c true now q) q
    run.cs ≠ .idle ∧ (q.cs ≠ .coinAsserted → run.cs ≠ .coinAsserted) ∧ (q.cs = .awaitRelease → run = q))

/-- 46_input_power.md R306: both comparisons are strict; a clear latch stays clear up to `TILT_ON`, a set one stays set down
to `TILT_OFF`, and a value strictly between the thresholds changes no latch. -/
def Obligations.TiltHysteresis : Prop :=
  ∀ (c : OrchParams) (pitch roll : Int) (t : Tilt), 0 ≤ c.tiltOff → c.tiltOff < c.tiltOn →
    ¬(t.up = true ∧ t.down = true) → ¬(t.left = true ∧ t.right = true) →
    let p := c.tiltPitchSign * pitch
    let q := c.tiltRollSign * roll
    let r := tiltStep c pitch roll t
    (t.down = false → p ≤ c.tiltOn → r.down = false) ∧ (t.down = true → c.tiltOff ≤ p → r.down = true) ∧
    (t.up = false → -p ≤ c.tiltOn → r.up = false) ∧ (t.up = true → c.tiltOff ≤ -p → r.up = true) ∧
    (t.right = false → q ≤ c.tiltOn → r.right = false) ∧ (t.right = true → c.tiltOff ≤ q → r.right = true) ∧
    (t.left = false → -q ≤ c.tiltOn → r.left = false) ∧ (t.left = true → c.tiltOff ≤ -q → r.left = true) ∧
    (c.tiltOn < p → r.down = true) ∧ (p < c.tiltOff → r.down = false) ∧
    (c.tiltOn < -p → r.up = true) ∧ (-p < c.tiltOff → r.up = false) ∧
    (c.tiltOn < q → r.right = true) ∧ (q < c.tiltOff → r.right = false) ∧
    (c.tiltOn < -q → r.left = true) ∧ (-q < c.tiltOff → r.left = false)

/-- 46_input_power.md R307 and R308: after every step at most one latch of each axis is set, from any latches; the explicit
clearing lines never change a result; the axes are independent, and a diagonal tilt sets a latch of each. -/
def Obligations.TiltExclusionAndAxes : Prop :=
  ∀ (c : OrchParams) (pitch roll pitch' roll' : Int) (t : Tilt),
    let r := tiltStep c pitch roll t
    ¬(r.up = true ∧ r.down = true) ∧ ¬(r.left = true ∧ r.right = true) ∧
    (0 ≤ c.tiltOff → c.tiltOff < c.tiltOn → ¬(t.up = true ∧ t.down = true) → ¬(t.left = true ∧ t.right = true) →
      r = { down := tiltDir c (c.tiltPitchSign * pitch) t.down, up := tiltDir c (-(c.tiltPitchSign * pitch)) t.up
            right := tiltDir c (c.tiltRollSign * roll) t.right, left := tiltDir c (-(c.tiltRollSign * roll)) t.left }) ∧
    (tiltStep c pitch' roll t).left = r.left ∧ (tiltStep c pitch' roll t).right = r.right ∧
    (tiltStep c pitch roll' t).up = r.up ∧ (tiltStep c pitch roll' t).down = r.down ∧
    (c.tiltOn < c.tiltPitchSign * pitch → c.tiltOn < c.tiltRollSign * roll → r.down = true ∧ r.right = true)

/-- `POWER_EVAL` (46_input_power.md R320, R321, R322, R323, R324): every power register and every call, in order, from the
voices, the mute flag and the mode byte; nothing else changes. -/
def Obligations.PowerEval : Prop :=
  ∀ s : State, IntReady s →
    let mute := s.env.platform.mute
    let quiet := (s.voices[0]).vol = 0#4 ∧ (s.voices[1]).vol = 0#4 ∧ (s.voices[2]).vol = 0#4 ∨ mute = true
    let wake := s.power.mutePrev = true ∧ mute = false ∨ ¬quiet
    let playing := s.cfg.orch.playThreshold.toNat ≤ (s.byteAt s.cfg.orch.modeOff).toNat
    let sil := min s.cfg.orch.silenceFrames (s.power.silentCnt + 1)
    let idl := min s.cfg.orch.idleFrames (s.power.idleCnt + 1)
    ∃ (t : State) (amp perf light : List Obs), exec .powerEval s = .next t ∧ PowerOnly s t ∧ EndsWith s t .ok ∧
      PutsOut s t ([.audGetMute] ++ amp ++ perf ++ light) ∧ t.power.mutePrev = mute ∧
      (wake → t.power.silentCnt = 0 ∧ t.power.ampOn = true ∧
        amp = if s.power.ampOn = true then [] else [.audSetPower true]) ∧
      (¬wake → t.power.silentCnt = sil ∧
        (sil = s.cfg.orch.silenceFrames →
          t.power.ampOn = false ∧ amp = if s.power.ampOn = true then [.audSetPower false] else []) ∧
        (sil ≠ s.cfg.orch.silenceFrames → t.power.ampOn = s.power.ampOn ∧ amp = [])) ∧
      (playing → t.power.perf = .high ∧ perf = (if s.power.perf = .high then [] else [.hostSetPerf .high]) ∧
        t.power.idleCnt = 0 ∧ t.power.backlight = s.cfg.orch.blFull ∧
        light = if s.power.backlight = s.cfg.orch.blFull then [] else [.dispSetBacklight s.cfg.orch.blFull]) ∧
      (¬playing → t.power.perf = .low ∧ perf = (if s.power.perf = .low then [] else [.hostSetPerf .low]) ∧
        t.power.idleCnt = idl ∧
        (idl = s.cfg.orch.idleFrames → t.power.backlight = s.cfg.orch.blDim ∧
          light = if s.power.backlight = s.cfg.orch.blDim then [] else [.dispSetBacklight s.cfg.orch.blDim]) ∧
        (idl ≠ s.cfg.orch.idleFrames → t.power.backlight = s.power.backlight ∧ light = []))

/-! ### The orchestrator -/

/-- `VBLANK` (45_frame_orchestrator.md R275, R276; 60_exceptions.md R350, R352): one interrupt with the vector `irqvec` when
bit 0 of the IE byte is set, none otherwise; no state of the block changes, so nothing is held pending or cleared. -/
def Obligations.Vblank : Prop :=
  ∀ s : State, IntReady s →
    ∃ t, exec .vblank s = .next t ∧ BlockSame s t ∧ EndsWith s t .ok ∧
      PutsOut s t (if (s.byteAt (s.cfg.map.ieAddr - s.cfg.map.blockBase)).toNat % 2 = 1 then [.cpuInterrupt s.mio.irqvec]
        else [])

/-- `ATTRACT` (45_frame_orchestrator.md R280): in the grace period the mode byte is recorded and nothing fires; after it the
detector fires exactly on the edge into `ATTRACT_VALUE` while it has not played. When it does not fire the operation ends;
when it fires the cutscene is called and ORCH is in `CUTSCENE`, with the credit reset due (the model's field `cutDue`, log 30). -/
def Obligations.AttractDetector : Prop :=
  ∀ s : State, IntReady s →
    let m := s.byteAt s.cfg.orch.modeOff
    let s2 := s.byteAt s.cfg.orch.state2Off
    let grace := s.det.graceCnt < s.cfg.orch.graceTicks
    let played := s.det.played = true ∧ m ≠ s.cfg.orch.playValue
    let fire := ¬grace ∧ m = s.cfg.orch.attractValue ∧ s.det.prevMode ≠ s.cfg.orch.attractValue ∧ ¬played ∧
      s.cfg.orch.state2Gate.getLsbD s2.toNat = true
    ∃ t, exec .attract s = .next t ∧ BytesSame s t ∧ t.det.prevMode = m ∧
      t = { s with det := t.det, orch := t.orch, env := t.env } ∧
      (grace → t.det.graceCnt = s.det.graceCnt + 1 ∧ t.det.played = s.det.played) ∧
      (¬grace → t.det.graceCnt = s.det.graceCnt ∧ (t.det.played = true ↔ fire ∨ played)) ∧
      (¬fire → t.orch = { s.orch with cutDue := false } ∧ PutsOut s t [] ∧ EndsWith s t .ok) ∧
      (fire → t.orch = { s.orch with phase := .cutscene, cutDue := true, hostOp := t.orch.hostOp } ∧
        PutsOut s t [.cutPlay])

/-- 45_frame_orchestrator.md R280: over any sequence of mode and state bytes without `PLAY_VALUE`, the detector fires at most
once, and not at all when it has already played; the document's sequence fires exactly once at P0. -/
def Obligations.DetectorFiresOncePerCycle : Prop :=
  let count : OrchParams → Detector → List (Byte × Byte) → Nat := fun c d l =>
    (l.foldl (fun (a : Detector × Nat) m =>
      ((detectorStep c m.1 m.2 a.1).1, a.2 + if (detectorStep c m.1 m.2 a.1).2 then 1 else 0)) (d, 0)).2
  (∀ (c : OrchParams) (d : Detector) (l : List (Byte × Byte)), c.playValue ∉ l.map Prod.fst →
    count c d l ≤ 1 ∧ (d.played = true → count c d l = 0)) ∧
  (∀ (d : Detector) (a b e : Byte), d.prevMode ≠ 1#8 → d.played = false →
    count p0Orch d [(1#8, a), (2#8, b), (1#8, e)] = 1)

/-- The end of the cutscene (45_frame_orchestrator.md R261, R280, R281, R282; 60_exceptions.md R345): while CUT plays nothing
changes; when it ends, well or not, the credits are cleared and a failure is a status. A tick is then at the boundary before
`PACE`, where HOST may inspect the block (20_memory.md R82, log 18), and goes on to `PACE` in its next step; the `ATTRACT` that
HOST issued is over, in `TICK_START` (log 12). -/
def Obligations.CutsceneEnds : Prop :=
  ∀ s : State, s.orch.phase = .cutscene → MemoryOk s →
    (s.orch.cutDue = true → s.env.platform.cut = .playing → orchStep s = .next s) ∧
    (s.orch.cutDue = true → s.env.platform.cut ≠ .playing →
      ∃ t, orchStep s = .next t ∧
        t = { s with mio := { s.mio with blk := t.mio.blk }, orch := t.orch, env := t.env } ∧
        t.byteAt s.cfg.orch.creditOffA = 0#8 ∧ t.byteAt s.cfg.orch.creditOffB = 0#8 ∧
        (∀ off, off ≠ s.cfg.orch.creditOffA → off ≠ s.cfg.orch.creditOffB → t.byteAt off = s.byteAt off) ∧
        t.env.st = s.env.st ++ (if s.env.platform.cut = .fail then [.cutsceneFailed] else []) ∧ PutsOut s t [] ∧
        t.orch = { s.orch with
          phase := if s.orch.hostOp = true then .tickStart else .cutscene
          hostOp := false
          cutDue := false } ∧
        (s.orch.fault = none → InspectReady (t.setAgent .host))) ∧
    (s.orch.cutDue = false → ∃ t, orchStep s = .next t ∧ OrchOnly s t ∧ t.orch = { s.orch with phase := .pace } ∧
      PutsOut s t (if s.early = true then [.hostSleepUntil s.paceTarget] else []))

/-- `CPU_EXEC` (45_frame_orchestrator.md R270): ORCH enters `CPU_EXEC` and calls `CPU.execute(CPU_BUDGET)` once; nothing else
of the block changes. That ORCH is in `CPU_EXEC` when HOST issued the operation as well, and comes back to `TICK_START` after
it, is the model's reading (log 12). -/
def Obligations.CpuExecBegins : Prop :=
  ∀ s : State, IntReady s →
    ∃ t, exec .cpuExec s = .next t ∧ OrchOnly s t ∧ PutsOut s t [.cpuExecute s.cfg.orch.cpuBudget] ∧
      t.orch = { s.orch with phase := .cpuExec, hostOp := t.orch.hostOp }

/-- `PACE` (45_frame_orchestrator.md R284, R285): before the target ORCH asks HOST to sleep until
`tick_t0 + TICK_PERIOD_US` and is in `PACE`, which ends when the clock has reached the target; at or after it there is no
call. HOST's operation then ends at once. That HOST's early `PACE` puts ORCH in `PACE`, and that ORCH's steps carry it on, is the
model's reading (log 12). -/
def Obligations.Pacing : Prop :=
  ∀ s : State, IntReady s →
    let target := s.orch.tickT0.toNat + s.cfg.orch.tickPeriodUs
    let now := s.env.platform.nowUs.toNat
    (now < target → ∃ t, exec .pace s = .next t ∧ OrchOnly s t ∧ t.orch.phase = .pace ∧
      PutsOut s t [.hostSleepUntil target] ∧ t.orch.tickT0 = s.orch.tickT0) ∧
    (target ≤ now → ∃ t, exec .pace s = .next t ∧ OrchOnly s t ∧ PutsOut s t [] ∧ EndsWith s t .ok ∧
      (s.env.agent = .host → t.orch = s.orch)) ∧
    (s.orch.phase = .pace → now < target → orchStep s = .next s) ∧
    (s.orch.phase = .pace → target ≤ now → ∃ t, orchStep s = .next t ∧ OrchOnly s t ∧ t.orch.phase = .tickStart ∧
      PutsOut s t [])

/-- `TICK` (45_frame_orchestrator.md R261, R262; 70_reset_and_hazards.md R400): the status list is emptied, `tick_t0` is the
time, and the CPU is called; refused when a table is not built. The rest of the tick is `TickRunsAsWritten`. -/
def Obligations.TickBegins : Prop :=
  ∀ s : State, TickReady s →
    (s.notBuilt = false →
      ∃ t, exec .tick s = .next t ∧ OrchOnly s t ∧ PutsOut s t [.cpuExecute s.cfg.orch.cpuBudget] ∧ t.env.st = [] ∧
        t.orch.phase = .cpuExec ∧ t.orch.tickT0 = s.env.platform.nowUs ∧ t.orch.bandJ = s.orch.bandJ ∧
        t.orch.fault = s.orch.fault) ∧
    (s.notBuilt = true →
      ∃ t, exec .tick s = .next t ∧ BlockSame s t ∧ t.env.trace = s.env.trace ∧ t.env.status = .refused .notBuilt)

/-- The phase transitions of 45_frame_orchestrator.md R261: from every phase ORCH goes to the phase the table gives and to no
other. That the detector fired (R280), and that the cutscene with its credit reset is not over, is read in `cutDue` (log 30). A
wait that has not been answered stays (log 17), and an operation that HOST issued as an `INT` word goes back to
`TICK_START` (log 12). -/
def Obligations.PhaseTransitions : Prop :=
  ∀ s t : State, s.orch.fault = none → s.notBuilt = false → orchStep s = .next t →
    let j := s.orch.bandJ
    let m := s.byteAt s.cfg.orch.modeOff
    let fires := s.cfg.orch.graceTicks ≤ s.det.graceCnt ∧ m = s.cfg.orch.attractValue ∧
      s.det.prevMode ≠ s.cfg.orch.attractValue ∧ ¬(s.det.played = true ∧ m ≠ s.cfg.orch.playValue) ∧
      s.cfg.orch.state2Gate.getLsbD (s.byteAt s.cfg.orch.state2Off).toNat = true
    let target := s.orch.tickT0.toNat + s.cfg.orch.tickPeriodUs
    let goesOn := (j + 1 < s.cfg.geo.bandCount → t.orch.phase = .bandRender ∧ t.orch.bandJ = j + 1) ∧
      (s.cfg.geo.bandCount ≤ j + 1 → t.orch.phase = .frameWait ∧ t.orch.bandJ = j)
    (s.orch.phase = .reset ∨ s.orch.phase = .initFailed → t = s) ∧
    (s.orch.phase = .tickStart → t.orch.phase = .cpuExec ∧ t.orch.tickT0 = s.env.platform.nowUs) ∧
    (s.orch.phase = .cpuExec → t.orch.phase = if s.orch.hostOp = true then .tickStart else .parse) ∧
    (s.orch.phase = .parse → t.orch.phase = .sprPrep) ∧
    (s.orch.phase = .sprPrep → s.video.dispBusy = false → t.orch.phase = .bandRender ∧ t.orch.bandJ = 0) ∧
    (s.orch.phase = .bandRender → t.orch.bandJ = j ∧ t.orch.phase = if 0 < j then .bandWait else .bandSend) ∧
    (s.orch.phase = .bandWait →
      (s.env.platform.dispDone = true → t.orch.phase = .bandSend ∧ t.orch.bandJ = j) ∧
      (s.env.platform.dispDone = false → t = s)) ∧
    (s.orch.phase = .bandSend →
      ((j + 1) % s.cfg.wsg.audioRefillBands = 0 → t.orch.phase = .audioRefill ∧ t.orch.bandJ = j) ∧
      ((j + 1) % s.cfg.wsg.audioRefillBands ≠ 0 → goesOn)) ∧
    (s.orch.phase = .audioRefill → goesOn) ∧
    (s.orch.phase = .frameWait →
      (s.env.platform.dispDone = true → t.orch.bandJ = s.cfg.geo.bandCount ∧
        t.orch.phase = if s.orch.hostOp = true then .tickStart else .input) ∧
      (s.env.platform.dispDone = false → t = s)) ∧
    (s.orch.phase = .input → t.orch.phase = .power) ∧
    (s.orch.phase = .power → t.orch.phase = .vblank) ∧
    (s.orch.phase = .vblank → t.orch.phase = .attract ∧ (t.orch.cutDue = true ↔ fires)) ∧
    (s.orch.phase = .attract → t.orch.phase = if s.orch.cutDue = true then .cutscene else .pace) ∧
    (s.orch.phase = .cutscene →
      (s.orch.cutDue = true → s.env.platform.cut = .playing → t = s) ∧
      (s.orch.cutDue = true → s.env.platform.cut ≠ .playing →
        t.orch.cutDue = false ∧ t.orch.phase = if s.orch.hostOp = true then .tickStart else .cutscene) ∧
      (s.orch.cutDue = false → t.orch.phase = .pace)) ∧
    (s.orch.phase = .pace →
      (s.env.platform.nowUs.toNat < target → t = s) ∧
      (target ≤ s.env.platform.nowUs.toNat → t.orch.phase = .tickStart))

/-- A tick with an idle CPU, a prompt DISP and nobody presenting anything runs, phase by phase, to the end of the pseudocode
of 45_frame_orchestrator.md R262, up to the sleep of `PACE`. Its steps are the model's reading (logs 5, 6). -/
def Obligations.TickRunsAsWritten : Prop :=
  ∀ s : State, TickReady s → FreeRunning s → s.notBuilt = false → s.video.dispBusy = false → 1 ≤ s.cfg.geo.bandCount →
    ∃ t n, exec .tick s = .next t ∧ Host.Core.run core n t = .next s.tickWhole

/-! ### Invariants of every step -/

/-- Every step keeps `blk` in canonical form and the ranges the state's rules give: sound registers below 16 (10_state.md
R35), at most one tilt latch of each axis (46_input_power.md R307), the counters within their limits (10_state.md R51, R52),
the sprite list (R45), the voices (R40) and the shape of the band buffers (R46); and no step changes the launch (R30,
R31). -/
def Obligations.StepKeepsRanges : Prop :=
  ∀ s t : State, step s = .next t →
    (MemoryOk s → MemoryOk t) ∧ (SoundOk s → SoundOk t) ∧ (TiltOk s → TiltOk t) ∧ (CountersOk s → CountersOk t) ∧
      (SpritesOk s → SpritesOk t) ∧ (VoicesOk s → VoicesOk t) ∧ (BandsOk s → BandsOk t) ∧ t.cfg = s.cfg ∧ t.load = s.load

/-- Every step keeps: `fault` is set exactly in `INIT_FAILED` (10_state.md R63), and outside `RESET` and `INIT_FAILED` both
tables are built, so that `NOT_BUILT` cannot occur after a successful `RESET` (70_reset_and_hazards.md R400). -/
def Obligations.StepKeepsFaultAndTables : Prop :=
  ∀ s t : State, step s = .next t → FaultOk s → BuiltOk s → FaultOk t ∧ BuiltOk t

/-- Every step keeps the buffer protocol of 43_sprite_compositor.md R214: at most one buffer is in flight, it is the one the
phase and `band_j` say, and `disp_busy` says whether there is one. -/
def Obligations.StepKeepsBufferProtocol : Prop :=
  ∀ s t : State, step s = .next t → 1 ≤ s.cfg.geo.bandCount → DisplayOk s → DisplayOk t

/-- 20_memory.md R84: no step writes a band buffer that is in flight and stays so; nor does any step but the two that draw its
contents anew, a successful `RESET` (10_state.md R65) and the return of the wait for its transfer, after which the contents
are any value (93_implementation_defined.md U6, log 28). -/
def Obligations.InFlightBufferIsNotWritten : Prop :=
  ∀ (s t : State) (k : Nat), step s = .next t → k ≤ 1 → DisplayOk s → s.owner k = .inflight →
    t.owner k = .inflight ∨ t.env.draws = s.env.draws → t.band k = s.band k
end

