-- ==== Sys2Proof/Laws/Decode.lean ====
section
/-! SUPPORT. The fields of a packed transaction word read back (30_encoding.md R100). -/

namespace Sys2Proof

variable (cmd sub : BitVec 4) (data : Byte) (arg : Half)

@[simp] theorem wordCmd_packWord : wordCmd (packWord cmd sub data arg) = cmd := by
  ext i hi
  simp only [wordCmd, packWord, BitVec.getElem_extractLsb', BitVec.getLsbD_append]
  rw [if_neg (by omega), if_neg (by omega), if_neg (by omega)]
  rw [show 28 + i - 16 - 8 - 4 = i by omega, BitVec.getLsbD_eq_getElem hi]

@[simp] theorem wordSub_packWord : wordSub (packWord cmd sub data arg) = sub := by
  ext i hi
  simp only [wordSub, packWord, BitVec.getElem_extractLsb', BitVec.getLsbD_append]
  rw [if_neg (by omega), if_neg (by omega), if_pos (by omega)]
  rw [show 24 + i - 16 - 8 = i by omega, BitVec.getLsbD_eq_getElem hi]

@[simp] theorem wordData_packWord : wordData (packWord cmd sub data arg) = data := by
  ext i hi
  simp only [wordData, packWord, BitVec.getElem_extractLsb', BitVec.getLsbD_append]
  rw [if_neg (by omega), if_pos (by omega)]
  rw [show 16 + i - 16 = i by omega, BitVec.getLsbD_eq_getElem hi]

@[simp] theorem wordArg_packWord : wordArg (packWord cmd sub data arg) = arg := by
  ext i hi
  simp only [wordArg, packWord, BitVec.getElem_extractLsb', BitVec.getLsbD_append]
  rw [if_pos (by omega), Nat.zero_add, BitVec.getLsbD_eq_getElem hi]

/-- A word is its four fields. -/
theorem packWord_fields (t : Word) : packWord (wordCmd t) (wordSub t) (wordData t) (wordArg t) = t := by
  refine BitVec.eq_of_getLsbD_eq fun i hi => ?_
  simp only [packWord, wordCmd, wordSub, wordData, wordArg, BitVec.getLsbD_append, BitVec.getLsbD_extractLsb']
  split_ifs with h1 h2 h3
  · simp [h1]
  · simp [h2, show 16 + (i - 16) = i by omega]
  · simp [h3, show 24 + (i - 16 - 8) = i by omega]
  · simp [show 28 + (i - 16 - 8 - 4) = i by omega]; omega

@[simp] theorem argBuffer_append (k b : Byte) : argBuffer (k ++ b : Half) = k := by
  ext i hi
  simp only [argBuffer, BitVec.getElem_extractLsb', BitVec.getLsbD_append]
  rw [if_neg (by omega), show 8 + i - 8 = i by omega, BitVec.getLsbD_eq_getElem hi]

@[simp] theorem argBand_append (k b : Byte) : argBand (k ++ b : Half) = b := by
  ext i hi
  simp only [argBand, BitVec.getElem_extractLsb', BitVec.getLsbD_append]
  rw [if_pos (by omega), Nat.zero_add, BitVec.getLsbD_eq_getElem hi]

theorem append_argBuffer_argBand (a : Half) : (argBuffer a ++ argBand a : Half) = a := by
  ext i hi
  simp only [argBuffer, argBand, BitVec.getElem_append, BitVec.getElem_extractLsb']
  split
  · rw [Nat.zero_add, BitVec.getLsbD_eq_getElem hi]
  · rw [show 8 + (i - 8) = i by omega, BitVec.getLsbD_eq_getElem hi]

variable (c : Params)

/-! The decoder on a packed word, class by class (R101 to R107). -/

theorem decode_rd : decode c (packWord 0x1#4 sub data arg) =
    if sub = 0#4 ∧ data = 0#8 then some (decodeRead c arg) else none := by simp [decode]

theorem decode_wr : decode c (packWord 0x2#4 sub data arg) =
    if sub = 0#4 then some (decodeWrite c arg data) else none := by simp [decode]

theorem decode_portRd : decode c (packWord 0x3#4 sub data arg) =
    if sub = 0#4 ∧ data = 0#8 then some (.inPort arg) else none := by simp [decode]

theorem decode_portWr : decode c (packWord 0x4#4 sub data arg) =
    if sub = 0#4 then some (if arg.setWidth 8 = c.map.vecPort then .outVec arg data else .outNone arg data)
    else none := by simp [decode]

theorem decode_inspectRd : decode c (packWord 0x5#4 sub data arg) =
    if sub = 0#4 ∧ data = 0#8 ∧ arg.toNat < c.map.blockSize then some (.ird arg) else none := by simp [decode]

theorem decode_inspectWr : decode c (packWord 0x6#4 sub data arg) =
    if sub = 0#4 ∧ arg.toNat < c.map.blockSize then some (.iwr arg data) else none := by simp [decode]

theorem decode_crst : decode c (packWord 0x7#4 sub data arg) =
    if sub = 0#4 ∧ data = 0#8 ∧ arg = 0#16 then some .crst else none := by simp [decode]

theorem decode_reset : decode c (packWord 0x8#4 sub data arg) =
    if sub = 0#4 ∧ data = 0#8 ∧ arg = 0#16 then some .reset else none := by simp [decode]

theorem decode_tick : decode c (packWord 0x9#4 sub data arg) =
    if sub = 0#4 ∧ data = 0#8 ∧ arg = 0#16 then some .tick else none := by simp [decode]

theorem decode_int : decode c (packWord 0xF#4 sub data arg) =
    if data = 0#8 then decodeInternal c sub arg else none := by simp [decode]

/-- A word of a reserved `CMD` does not decode (R119). -/
theorem decode_reserved (h : cmd = 0x0#4 ∨ (0xA#4 ≤ cmd ∧ cmd ≤ 0xE#4)) : decode c (packWord cmd sub data arg) = none := by
  have h' : cmd = 0x0#4 ∨ cmd = 0xA#4 ∨ cmd = 0xB#4 ∨ cmd = 0xC#4 ∨ cmd = 0xD#4 ∨ cmd = 0xE#4 := by
    revert cmd; decide
  rcases h' with rfl | rfl | rfl | rfl | rfl | rfl <;> simp [decode]

end Sys2Proof
end

