-- ==== Sys2Proof/Laws/State.lean ====
section
/-! SUPPORT. One lemma for each field and each update of the state: what the update leaves in the field. -/

namespace Sys2Proof.Machine

/-! `State.setByte` -/

@[simp] theorem State.setByte_cfg (s : State) (off : Nat) (v : Byte) : (s.setByte off v).cfg = s.cfg := rfl
@[simp] theorem State.setByte_load (s : State) (off : Nat) (v : Byte) : (s.setByte off v).load = s.load := rfl
@[simp] theorem State.setByte_mio_blk (s : State) (off : Nat) (v : Byte) : (s.setByte off v).mio.blk = s.mio.blk.store off v := rfl
@[simp] theorem State.setByte_mio_snd (s : State) (off : Nat) (v : Byte) : (s.setByte off v).mio.snd = s.mio.snd := rfl
@[simp] theorem State.setByte_mio_irqvec (s : State) (off : Nat) (v : Byte) : (s.setByte off v).mio.irqvec = s.mio.irqvec := rfl
@[simp] theorem State.setByte_mio_in0 (s : State) (off : Nat) (v : Byte) : (s.setByte off v).mio.in0 = s.mio.in0 := rfl
@[simp] theorem State.setByte_mio_in1 (s : State) (off : Nat) (v : Byte) : (s.setByte off v).mio.in1 = s.mio.in1 := rfl
@[simp] theorem State.setByte_voices (s : State) (off : Nat) (v : Byte) : (s.setByte off v).voices = s.voices := rfl
@[simp] theorem State.setByte_video (s : State) (off : Nat) (v : Byte) : (s.setByte off v).video = s.video := rfl
@[simp] theorem State.setByte_tilt (s : State) (off : Nat) (v : Byte) : (s.setByte off v).tilt = s.tilt := rfl
@[simp] theorem State.setByte_coin (s : State) (off : Nat) (v : Byte) : (s.setByte off v).coin = s.coin := rfl
@[simp] theorem State.setByte_power (s : State) (off : Nat) (v : Byte) : (s.setByte off v).power = s.power := rfl
@[simp] theorem State.setByte_det (s : State) (off : Nat) (v : Byte) : (s.setByte off v).det = s.det := rfl
@[simp] theorem State.setByte_orch (s : State) (off : Nat) (v : Byte) : (s.setByte off v).orch = s.orch := rfl
@[simp] theorem State.setByte_env (s : State) (off : Nat) (v : Byte) : (s.setByte off v).env = s.env := rfl

/-! `State.setSnd` -/

@[simp] theorem State.setSnd_cfg (s : State) (i : Nat) (v : Byte) : (s.setSnd i v).cfg = s.cfg := rfl
@[simp] theorem State.setSnd_load (s : State) (i : Nat) (v : Byte) : (s.setSnd i v).load = s.load := rfl
@[simp] theorem State.setSnd_mio_blk (s : State) (i : Nat) (v : Byte) : (s.setSnd i v).mio.blk = s.mio.blk := rfl
@[simp] theorem State.setSnd_mio_snd (s : State) (i : Nat) (v : Byte) : (s.setSnd i v).mio.snd = s.mio.snd.set i v := rfl
@[simp] theorem State.setSnd_mio_irqvec (s : State) (i : Nat) (v : Byte) : (s.setSnd i v).mio.irqvec = s.mio.irqvec := rfl
@[simp] theorem State.setSnd_mio_in0 (s : State) (i : Nat) (v : Byte) : (s.setSnd i v).mio.in0 = s.mio.in0 := rfl
@[simp] theorem State.setSnd_mio_in1 (s : State) (i : Nat) (v : Byte) : (s.setSnd i v).mio.in1 = s.mio.in1 := rfl
@[simp] theorem State.setSnd_voices (s : State) (i : Nat) (v : Byte) : (s.setSnd i v).voices = s.voices := rfl
@[simp] theorem State.setSnd_video (s : State) (i : Nat) (v : Byte) : (s.setSnd i v).video = s.video := rfl
@[simp] theorem State.setSnd_tilt (s : State) (i : Nat) (v : Byte) : (s.setSnd i v).tilt = s.tilt := rfl
@[simp] theorem State.setSnd_coin (s : State) (i : Nat) (v : Byte) : (s.setSnd i v).coin = s.coin := rfl
@[simp] theorem State.setSnd_power (s : State) (i : Nat) (v : Byte) : (s.setSnd i v).power = s.power := rfl
@[simp] theorem State.setSnd_det (s : State) (i : Nat) (v : Byte) : (s.setSnd i v).det = s.det := rfl
@[simp] theorem State.setSnd_orch (s : State) (i : Nat) (v : Byte) : (s.setSnd i v).orch = s.orch := rfl
@[simp] theorem State.setSnd_env (s : State) (i : Nat) (v : Byte) : (s.setSnd i v).env = s.env := rfl

/-! `State.setIrqvec` -/

@[simp] theorem State.setIrqvec_cfg (s : State) (v : Byte) : (s.setIrqvec v).cfg = s.cfg := rfl
@[simp] theorem State.setIrqvec_load (s : State) (v : Byte) : (s.setIrqvec v).load = s.load := rfl
@[simp] theorem State.setIrqvec_mio_blk (s : State) (v : Byte) : (s.setIrqvec v).mio.blk = s.mio.blk := rfl
@[simp] theorem State.setIrqvec_mio_snd (s : State) (v : Byte) : (s.setIrqvec v).mio.snd = s.mio.snd := rfl
@[simp] theorem State.setIrqvec_mio_irqvec (s : State) (v : Byte) : (s.setIrqvec v).mio.irqvec = v := rfl
@[simp] theorem State.setIrqvec_mio_in0 (s : State) (v : Byte) : (s.setIrqvec v).mio.in0 = s.mio.in0 := rfl
@[simp] theorem State.setIrqvec_mio_in1 (s : State) (v : Byte) : (s.setIrqvec v).mio.in1 = s.mio.in1 := rfl
@[simp] theorem State.setIrqvec_voices (s : State) (v : Byte) : (s.setIrqvec v).voices = s.voices := rfl
@[simp] theorem State.setIrqvec_video (s : State) (v : Byte) : (s.setIrqvec v).video = s.video := rfl
@[simp] theorem State.setIrqvec_tilt (s : State) (v : Byte) : (s.setIrqvec v).tilt = s.tilt := rfl
@[simp] theorem State.setIrqvec_coin (s : State) (v : Byte) : (s.setIrqvec v).coin = s.coin := rfl
@[simp] theorem State.setIrqvec_power (s : State) (v : Byte) : (s.setIrqvec v).power = s.power := rfl
@[simp] theorem State.setIrqvec_det (s : State) (v : Byte) : (s.setIrqvec v).det = s.det := rfl
@[simp] theorem State.setIrqvec_orch (s : State) (v : Byte) : (s.setIrqvec v).orch = s.orch := rfl
@[simp] theorem State.setIrqvec_env (s : State) (v : Byte) : (s.setIrqvec v).env = s.env := rfl

/-! `State.setBand` -/

@[simp] theorem State.setBand_cfg (s : State) (k : Nat) (b : Band) : (s.setBand k b).cfg = s.cfg := by
  unfold State.setBand; split <;> rfl
@[simp] theorem State.setBand_load (s : State) (k : Nat) (b : Band) : (s.setBand k b).load = s.load := by
  unfold State.setBand; split <;> rfl
@[simp] theorem State.setBand_mio (s : State) (k : Nat) (b : Band) : (s.setBand k b).mio = s.mio := by
  unfold State.setBand; split <;> rfl
@[simp] theorem State.setBand_voices (s : State) (k : Nat) (b : Band) : (s.setBand k b).voices = s.voices := by
  unfold State.setBand; split <;> rfl
@[simp] theorem State.setBand_video_tat (s : State) (k : Nat) (b : Band) : (s.setBand k b).video.tat = s.video.tat := by
  unfold State.setBand; split <;> rfl
@[simp] theorem State.setBand_video_palx (s : State) (k : Nat) (b : Band) : (s.setBand k b).video.palx = s.video.palx := by
  unfold State.setBand; split <;> rfl
@[simp] theorem State.setBand_video_asl (s : State) (k : Nat) (b : Band) : (s.setBand k b).video.asl = s.video.asl := by
  unfold State.setBand; split <;> rfl
@[simp] theorem State.setBand_video_owner0 (s : State) (k : Nat) (b : Band) : (s.setBand k b).video.owner0 = s.video.owner0 := by
  unfold State.setBand; split <;> rfl
@[simp] theorem State.setBand_video_owner1 (s : State) (k : Nat) (b : Band) : (s.setBand k b).video.owner1 = s.video.owner1 := by
  unfold State.setBand; split <;> rfl
@[simp] theorem State.setBand_video_dispBusy (s : State) (k : Nat) (b : Band) : (s.setBand k b).video.dispBusy = s.video.dispBusy := by
  unfold State.setBand; split <;> rfl
@[simp] theorem State.setBand_tilt (s : State) (k : Nat) (b : Band) : (s.setBand k b).tilt = s.tilt := by
  unfold State.setBand; split <;> rfl
@[simp] theorem State.setBand_coin (s : State) (k : Nat) (b : Band) : (s.setBand k b).coin = s.coin := by
  unfold State.setBand; split <;> rfl
@[simp] theorem State.setBand_power (s : State) (k : Nat) (b : Band) : (s.setBand k b).power = s.power := by
  unfold State.setBand; split <;> rfl
@[simp] theorem State.setBand_det (s : State) (k : Nat) (b : Band) : (s.setBand k b).det = s.det := by
  unfold State.setBand; split <;> rfl
@[simp] theorem State.setBand_orch (s : State) (k : Nat) (b : Band) : (s.setBand k b).orch = s.orch := by
  unfold State.setBand; split <;> rfl
@[simp] theorem State.setBand_env (s : State) (k : Nat) (b : Band) : (s.setBand k b).env = s.env := by
  unfold State.setBand; split <;> rfl

/-! `State.setOwner` -/

@[simp] theorem State.setOwner_cfg (s : State) (k : Nat) (o : Owner) : (s.setOwner k o).cfg = s.cfg := by
  unfold State.setOwner; split <;> rfl
@[simp] theorem State.setOwner_load (s : State) (k : Nat) (o : Owner) : (s.setOwner k o).load = s.load := by
  unfold State.setOwner; split <;> rfl
@[simp] theorem State.setOwner_mio (s : State) (k : Nat) (o : Owner) : (s.setOwner k o).mio = s.mio := by
  unfold State.setOwner; split <;> rfl
@[simp] theorem State.setOwner_voices (s : State) (k : Nat) (o : Owner) : (s.setOwner k o).voices = s.voices := by
  unfold State.setOwner; split <;> rfl
@[simp] theorem State.setOwner_video_tat (s : State) (k : Nat) (o : Owner) : (s.setOwner k o).video.tat = s.video.tat := by
  unfold State.setOwner; split <;> rfl
@[simp] theorem State.setOwner_video_palx (s : State) (k : Nat) (o : Owner) : (s.setOwner k o).video.palx = s.video.palx := by
  unfold State.setOwner; split <;> rfl
@[simp] theorem State.setOwner_video_asl (s : State) (k : Nat) (o : Owner) : (s.setOwner k o).video.asl = s.video.asl := by
  unfold State.setOwner; split <;> rfl
@[simp] theorem State.setOwner_video_buf0 (s : State) (k : Nat) (o : Owner) : (s.setOwner k o).video.buf0 = s.video.buf0 := by
  unfold State.setOwner; split <;> rfl
@[simp] theorem State.setOwner_video_buf1 (s : State) (k : Nat) (o : Owner) : (s.setOwner k o).video.buf1 = s.video.buf1 := by
  unfold State.setOwner; split <;> rfl
@[simp] theorem State.setOwner_video_dispBusy (s : State) (k : Nat) (o : Owner) : (s.setOwner k o).video.dispBusy = s.video.dispBusy := by
  unfold State.setOwner; split <;> rfl
@[simp] theorem State.setOwner_tilt (s : State) (k : Nat) (o : Owner) : (s.setOwner k o).tilt = s.tilt := by
  unfold State.setOwner; split <;> rfl
@[simp] theorem State.setOwner_coin (s : State) (k : Nat) (o : Owner) : (s.setOwner k o).coin = s.coin := by
  unfold State.setOwner; split <;> rfl
@[simp] theorem State.setOwner_power (s : State) (k : Nat) (o : Owner) : (s.setOwner k o).power = s.power := by
  unfold State.setOwner; split <;> rfl
@[simp] theorem State.setOwner_det (s : State) (k : Nat) (o : Owner) : (s.setOwner k o).det = s.det := by
  unfold State.setOwner; split <;> rfl
@[simp] theorem State.setOwner_orch (s : State) (k : Nat) (o : Owner) : (s.setOwner k o).orch = s.orch := by
  unfold State.setOwner; split <;> rfl
@[simp] theorem State.setOwner_env (s : State) (k : Nat) (o : Owner) : (s.setOwner k o).env = s.env := by
  unfold State.setOwner; split <;> rfl

/-! `State.drew` -/

@[simp] theorem State.drew_cfg (s : State) : (s.drew).cfg = s.cfg := rfl
@[simp] theorem State.drew_load (s : State) : (s.drew).load = s.load := rfl
@[simp] theorem State.drew_mio (s : State) : (s.drew).mio = s.mio := rfl
@[simp] theorem State.drew_voices (s : State) : (s.drew).voices = s.voices := rfl
@[simp] theorem State.drew_video (s : State) : (s.drew).video = s.video := rfl
@[simp] theorem State.drew_tilt (s : State) : (s.drew).tilt = s.tilt := rfl
@[simp] theorem State.drew_coin (s : State) : (s.drew).coin = s.coin := rfl
@[simp] theorem State.drew_power (s : State) : (s.drew).power = s.power := rfl
@[simp] theorem State.drew_det (s : State) : (s.drew).det = s.det := rfl
@[simp] theorem State.drew_orch (s : State) : (s.drew).orch = s.orch := rfl
@[simp] theorem State.drew_env_inputs (s : State) : (s.drew).env.inputs = s.env.inputs := rfl
@[simp] theorem State.drew_env_platform (s : State) : (s.drew).env.platform = s.env.platform := rfl
@[simp] theorem State.drew_env_agent (s : State) : (s.drew).env.agent = s.env.agent := rfl
@[simp] theorem State.drew_env_status (s : State) : (s.drew).env.status = s.env.status := rfl
@[simp] theorem State.drew_env_st (s : State) : (s.drew).env.st = s.env.st := rfl
@[simp] theorem State.drew_env_reply (s : State) : (s.drew).env.reply = s.env.reply := rfl
@[simp] theorem State.drew_env_trace (s : State) : (s.drew).env.trace = s.env.trace := rfl
@[simp] theorem State.drew_env_mark (s : State) : (s.drew).env.mark = s.env.mark := rfl
@[simp] theorem State.drew_env_draws (s : State) : (s.drew).env.draws = s.env.draws + 1 := rfl

/-! `State.setBusy` -/

@[simp] theorem State.setBusy_cfg (s : State) (b : Bool) : (s.setBusy b).cfg = s.cfg := rfl
@[simp] theorem State.setBusy_load (s : State) (b : Bool) : (s.setBusy b).load = s.load := rfl
@[simp] theorem State.setBusy_mio (s : State) (b : Bool) : (s.setBusy b).mio = s.mio := rfl
@[simp] theorem State.setBusy_voices (s : State) (b : Bool) : (s.setBusy b).voices = s.voices := rfl
@[simp] theorem State.setBusy_video_tat (s : State) (b : Bool) : (s.setBusy b).video.tat = s.video.tat := rfl
@[simp] theorem State.setBusy_video_palx (s : State) (b : Bool) : (s.setBusy b).video.palx = s.video.palx := rfl
@[simp] theorem State.setBusy_video_asl (s : State) (b : Bool) : (s.setBusy b).video.asl = s.video.asl := rfl
@[simp] theorem State.setBusy_video_buf0 (s : State) (b : Bool) : (s.setBusy b).video.buf0 = s.video.buf0 := rfl
@[simp] theorem State.setBusy_video_buf1 (s : State) (b : Bool) : (s.setBusy b).video.buf1 = s.video.buf1 := rfl
@[simp] theorem State.setBusy_video_owner0 (s : State) (b : Bool) : (s.setBusy b).video.owner0 = s.video.owner0 := rfl
@[simp] theorem State.setBusy_video_owner1 (s : State) (b : Bool) : (s.setBusy b).video.owner1 = s.video.owner1 := rfl
@[simp] theorem State.setBusy_video_dispBusy (s : State) (b : Bool) : (s.setBusy b).video.dispBusy = b := rfl
@[simp] theorem State.setBusy_tilt (s : State) (b : Bool) : (s.setBusy b).tilt = s.tilt := rfl
@[simp] theorem State.setBusy_coin (s : State) (b : Bool) : (s.setBusy b).coin = s.coin := rfl
@[simp] theorem State.setBusy_power (s : State) (b : Bool) : (s.setBusy b).power = s.power := rfl
@[simp] theorem State.setBusy_det (s : State) (b : Bool) : (s.setBusy b).det = s.det := rfl
@[simp] theorem State.setBusy_orch (s : State) (b : Bool) : (s.setBusy b).orch = s.orch := rfl
@[simp] theorem State.setBusy_env (s : State) (b : Bool) : (s.setBusy b).env = s.env := rfl

/-! `State.setPhase` -/

@[simp] theorem State.setPhase_cfg (s : State) (p : Phase) : (s.setPhase p).cfg = s.cfg := rfl
@[simp] theorem State.setPhase_load (s : State) (p : Phase) : (s.setPhase p).load = s.load := rfl
@[simp] theorem State.setPhase_mio (s : State) (p : Phase) : (s.setPhase p).mio = s.mio := rfl
@[simp] theorem State.setPhase_voices (s : State) (p : Phase) : (s.setPhase p).voices = s.voices := rfl
@[simp] theorem State.setPhase_video (s : State) (p : Phase) : (s.setPhase p).video = s.video := rfl
@[simp] theorem State.setPhase_tilt (s : State) (p : Phase) : (s.setPhase p).tilt = s.tilt := rfl
@[simp] theorem State.setPhase_coin (s : State) (p : Phase) : (s.setPhase p).coin = s.coin := rfl
@[simp] theorem State.setPhase_power (s : State) (p : Phase) : (s.setPhase p).power = s.power := rfl
@[simp] theorem State.setPhase_det (s : State) (p : Phase) : (s.setPhase p).det = s.det := rfl
@[simp] theorem State.setPhase_orch_phase (s : State) (p : Phase) : (s.setPhase p).orch.phase = p := rfl
@[simp] theorem State.setPhase_orch_bandJ (s : State) (p : Phase) : (s.setPhase p).orch.bandJ = s.orch.bandJ := rfl
@[simp] theorem State.setPhase_orch_tickT0 (s : State) (p : Phase) : (s.setPhase p).orch.tickT0 = s.orch.tickT0 := rfl
@[simp] theorem State.setPhase_orch_fault (s : State) (p : Phase) : (s.setPhase p).orch.fault = s.orch.fault := rfl
@[simp] theorem State.setPhase_orch_hostOp (s : State) (p : Phase) : (s.setPhase p).orch.hostOp = s.orch.hostOp := rfl
@[simp] theorem State.setPhase_orch_cutDue (s : State) (p : Phase) : (s.setPhase p).orch.cutDue = s.orch.cutDue := rfl
@[simp] theorem State.setPhase_env (s : State) (p : Phase) : (s.setPhase p).env = s.env := rfl

/-! `State.setBandJ` -/

@[simp] theorem State.setBandJ_cfg (s : State) (j : Nat) : (s.setBandJ j).cfg = s.cfg := rfl
@[simp] theorem State.setBandJ_load (s : State) (j : Nat) : (s.setBandJ j).load = s.load := rfl
@[simp] theorem State.setBandJ_mio (s : State) (j : Nat) : (s.setBandJ j).mio = s.mio := rfl
@[simp] theorem State.setBandJ_voices (s : State) (j : Nat) : (s.setBandJ j).voices = s.voices := rfl
@[simp] theorem State.setBandJ_video (s : State) (j : Nat) : (s.setBandJ j).video = s.video := rfl
@[simp] theorem State.setBandJ_tilt (s : State) (j : Nat) : (s.setBandJ j).tilt = s.tilt := rfl
@[simp] theorem State.setBandJ_coin (s : State) (j : Nat) : (s.setBandJ j).coin = s.coin := rfl
@[simp] theorem State.setBandJ_power (s : State) (j : Nat) : (s.setBandJ j).power = s.power := rfl
@[simp] theorem State.setBandJ_det (s : State) (j : Nat) : (s.setBandJ j).det = s.det := rfl
@[simp] theorem State.setBandJ_orch_phase (s : State) (j : Nat) : (s.setBandJ j).orch.phase = s.orch.phase := rfl
@[simp] theorem State.setBandJ_orch_bandJ (s : State) (j : Nat) : (s.setBandJ j).orch.bandJ = j := rfl
@[simp] theorem State.setBandJ_orch_tickT0 (s : State) (j : Nat) : (s.setBandJ j).orch.tickT0 = s.orch.tickT0 := rfl
@[simp] theorem State.setBandJ_orch_fault (s : State) (j : Nat) : (s.setBandJ j).orch.fault = s.orch.fault := rfl
@[simp] theorem State.setBandJ_orch_hostOp (s : State) (j : Nat) : (s.setBandJ j).orch.hostOp = s.orch.hostOp := rfl
@[simp] theorem State.setBandJ_orch_cutDue (s : State) (j : Nat) : (s.setBandJ j).orch.cutDue = s.orch.cutDue := rfl
@[simp] theorem State.setBandJ_env (s : State) (j : Nat) : (s.setBandJ j).env = s.env := rfl

/-! `State.setHostOp` -/

@[simp] theorem State.setHostOp_cfg (s : State) (b : Bool) : (s.setHostOp b).cfg = s.cfg := rfl
@[simp] theorem State.setHostOp_load (s : State) (b : Bool) : (s.setHostOp b).load = s.load := rfl
@[simp] theorem State.setHostOp_mio (s : State) (b : Bool) : (s.setHostOp b).mio = s.mio := rfl
@[simp] theorem State.setHostOp_voices (s : State) (b : Bool) : (s.setHostOp b).voices = s.voices := rfl
@[simp] theorem State.setHostOp_video (s : State) (b : Bool) : (s.setHostOp b).video = s.video := rfl
@[simp] theorem State.setHostOp_tilt (s : State) (b : Bool) : (s.setHostOp b).tilt = s.tilt := rfl
@[simp] theorem State.setHostOp_coin (s : State) (b : Bool) : (s.setHostOp b).coin = s.coin := rfl
@[simp] theorem State.setHostOp_power (s : State) (b : Bool) : (s.setHostOp b).power = s.power := rfl
@[simp] theorem State.setHostOp_det (s : State) (b : Bool) : (s.setHostOp b).det = s.det := rfl
@[simp] theorem State.setHostOp_orch_phase (s : State) (b : Bool) : (s.setHostOp b).orch.phase = s.orch.phase := rfl
@[simp] theorem State.setHostOp_orch_bandJ (s : State) (b : Bool) : (s.setHostOp b).orch.bandJ = s.orch.bandJ := rfl
@[simp] theorem State.setHostOp_orch_tickT0 (s : State) (b : Bool) : (s.setHostOp b).orch.tickT0 = s.orch.tickT0 := rfl
@[simp] theorem State.setHostOp_orch_fault (s : State) (b : Bool) : (s.setHostOp b).orch.fault = s.orch.fault := rfl
@[simp] theorem State.setHostOp_orch_hostOp (s : State) (b : Bool) : (s.setHostOp b).orch.hostOp = b := rfl
@[simp] theorem State.setHostOp_orch_cutDue (s : State) (b : Bool) : (s.setHostOp b).orch.cutDue = s.orch.cutDue := rfl
@[simp] theorem State.setHostOp_env (s : State) (b : Bool) : (s.setHostOp b).env = s.env := rfl

/-! `State.setCutDue` -/

@[simp] theorem State.setCutDue_cfg (s : State) (b : Bool) : (s.setCutDue b).cfg = s.cfg := rfl
@[simp] theorem State.setCutDue_load (s : State) (b : Bool) : (s.setCutDue b).load = s.load := rfl
@[simp] theorem State.setCutDue_mio (s : State) (b : Bool) : (s.setCutDue b).mio = s.mio := rfl
@[simp] theorem State.setCutDue_voices (s : State) (b : Bool) : (s.setCutDue b).voices = s.voices := rfl
@[simp] theorem State.setCutDue_video (s : State) (b : Bool) : (s.setCutDue b).video = s.video := rfl
@[simp] theorem State.setCutDue_tilt (s : State) (b : Bool) : (s.setCutDue b).tilt = s.tilt := rfl
@[simp] theorem State.setCutDue_coin (s : State) (b : Bool) : (s.setCutDue b).coin = s.coin := rfl
@[simp] theorem State.setCutDue_power (s : State) (b : Bool) : (s.setCutDue b).power = s.power := rfl
@[simp] theorem State.setCutDue_det (s : State) (b : Bool) : (s.setCutDue b).det = s.det := rfl
@[simp] theorem State.setCutDue_orch_phase (s : State) (b : Bool) : (s.setCutDue b).orch.phase = s.orch.phase := rfl
@[simp] theorem State.setCutDue_orch_bandJ (s : State) (b : Bool) : (s.setCutDue b).orch.bandJ = s.orch.bandJ := rfl
@[simp] theorem State.setCutDue_orch_tickT0 (s : State) (b : Bool) : (s.setCutDue b).orch.tickT0 = s.orch.tickT0 := rfl
@[simp] theorem State.setCutDue_orch_fault (s : State) (b : Bool) : (s.setCutDue b).orch.fault = s.orch.fault := rfl
@[simp] theorem State.setCutDue_orch_hostOp (s : State) (b : Bool) : (s.setCutDue b).orch.hostOp = s.orch.hostOp := rfl
@[simp] theorem State.setCutDue_orch_cutDue (s : State) (b : Bool) : (s.setCutDue b).orch.cutDue = b := rfl
@[simp] theorem State.setCutDue_env (s : State) (b : Bool) : (s.setCutDue b).env = s.env := rfl

/-! `State.stampTick` -/

@[simp] theorem State.stampTick_cfg (s : State) : (s.stampTick).cfg = s.cfg := rfl
@[simp] theorem State.stampTick_load (s : State) : (s.stampTick).load = s.load := rfl
@[simp] theorem State.stampTick_mio (s : State) : (s.stampTick).mio = s.mio := rfl
@[simp] theorem State.stampTick_voices (s : State) : (s.stampTick).voices = s.voices := rfl
@[simp] theorem State.stampTick_video (s : State) : (s.stampTick).video = s.video := rfl
@[simp] theorem State.stampTick_tilt (s : State) : (s.stampTick).tilt = s.tilt := rfl
@[simp] theorem State.stampTick_coin (s : State) : (s.stampTick).coin = s.coin := rfl
@[simp] theorem State.stampTick_power (s : State) : (s.stampTick).power = s.power := rfl
@[simp] theorem State.stampTick_det (s : State) : (s.stampTick).det = s.det := rfl
@[simp] theorem State.stampTick_orch_phase (s : State) : (s.stampTick).orch.phase = s.orch.phase := rfl
@[simp] theorem State.stampTick_orch_bandJ (s : State) : (s.stampTick).orch.bandJ = s.orch.bandJ := rfl
@[simp] theorem State.stampTick_orch_tickT0 (s : State) : (s.stampTick).orch.tickT0 = s.env.platform.nowUs := rfl
@[simp] theorem State.stampTick_orch_fault (s : State) : (s.stampTick).orch.fault = s.orch.fault := rfl
@[simp] theorem State.stampTick_orch_hostOp (s : State) : (s.stampTick).orch.hostOp = s.orch.hostOp := rfl
@[simp] theorem State.stampTick_orch_cutDue (s : State) : (s.stampTick).orch.cutDue = s.orch.cutDue := rfl
@[simp] theorem State.stampTick_env (s : State) : (s.stampTick).env = s.env := rfl

/-! `State.setAgent` -/

@[simp] theorem State.setAgent_cfg (s : State) (a : Agent) : (s.setAgent a).cfg = s.cfg := rfl
@[simp] theorem State.setAgent_load (s : State) (a : Agent) : (s.setAgent a).load = s.load := rfl
@[simp] theorem State.setAgent_mio (s : State) (a : Agent) : (s.setAgent a).mio = s.mio := rfl
@[simp] theorem State.setAgent_voices (s : State) (a : Agent) : (s.setAgent a).voices = s.voices := rfl
@[simp] theorem State.setAgent_video (s : State) (a : Agent) : (s.setAgent a).video = s.video := rfl
@[simp] theorem State.setAgent_tilt (s : State) (a : Agent) : (s.setAgent a).tilt = s.tilt := rfl
@[simp] theorem State.setAgent_coin (s : State) (a : Agent) : (s.setAgent a).coin = s.coin := rfl
@[simp] theorem State.setAgent_power (s : State) (a : Agent) : (s.setAgent a).power = s.power := rfl
@[simp] theorem State.setAgent_det (s : State) (a : Agent) : (s.setAgent a).det = s.det := rfl
@[simp] theorem State.setAgent_orch (s : State) (a : Agent) : (s.setAgent a).orch = s.orch := rfl
@[simp] theorem State.setAgent_env_inputs (s : State) (a : Agent) : (s.setAgent a).env.inputs = s.env.inputs := rfl
@[simp] theorem State.setAgent_env_platform (s : State) (a : Agent) : (s.setAgent a).env.platform = s.env.platform := rfl
@[simp] theorem State.setAgent_env_agent (s : State) (a : Agent) : (s.setAgent a).env.agent = a := rfl
@[simp] theorem State.setAgent_env_status (s : State) (a : Agent) : (s.setAgent a).env.status = s.env.status := rfl
@[simp] theorem State.setAgent_env_st (s : State) (a : Agent) : (s.setAgent a).env.st = s.env.st := rfl
@[simp] theorem State.setAgent_env_reply (s : State) (a : Agent) : (s.setAgent a).env.reply = s.env.reply := rfl
@[simp] theorem State.setAgent_env_trace (s : State) (a : Agent) : (s.setAgent a).env.trace = s.env.trace := rfl
@[simp] theorem State.setAgent_env_mark (s : State) (a : Agent) : (s.setAgent a).env.mark = s.env.mark := rfl
@[simp] theorem State.setAgent_env_draws (s : State) (a : Agent) : (s.setAgent a).env.draws = s.env.draws := rfl

/-! `State.setInputs` -/

@[simp] theorem State.setInputs_cfg (s : State) (l : List Input) : (s.setInputs l).cfg = s.cfg := rfl
@[simp] theorem State.setInputs_load (s : State) (l : List Input) : (s.setInputs l).load = s.load := rfl
@[simp] theorem State.setInputs_mio (s : State) (l : List Input) : (s.setInputs l).mio = s.mio := rfl
@[simp] theorem State.setInputs_voices (s : State) (l : List Input) : (s.setInputs l).voices = s.voices := rfl
@[simp] theorem State.setInputs_video (s : State) (l : List Input) : (s.setInputs l).video = s.video := rfl
@[simp] theorem State.setInputs_tilt (s : State) (l : List Input) : (s.setInputs l).tilt = s.tilt := rfl
@[simp] theorem State.setInputs_coin (s : State) (l : List Input) : (s.setInputs l).coin = s.coin := rfl
@[simp] theorem State.setInputs_power (s : State) (l : List Input) : (s.setInputs l).power = s.power := rfl
@[simp] theorem State.setInputs_det (s : State) (l : List Input) : (s.setInputs l).det = s.det := rfl
@[simp] theorem State.setInputs_orch (s : State) (l : List Input) : (s.setInputs l).orch = s.orch := rfl
@[simp] theorem State.setInputs_env_inputs (s : State) (l : List Input) : (s.setInputs l).env.inputs = l := rfl
@[simp] theorem State.setInputs_env_platform (s : State) (l : List Input) : (s.setInputs l).env.platform = s.env.platform := rfl
@[simp] theorem State.setInputs_env_agent (s : State) (l : List Input) : (s.setInputs l).env.agent = s.env.agent := rfl
@[simp] theorem State.setInputs_env_status (s : State) (l : List Input) : (s.setInputs l).env.status = s.env.status := rfl
@[simp] theorem State.setInputs_env_st (s : State) (l : List Input) : (s.setInputs l).env.st = s.env.st := rfl
@[simp] theorem State.setInputs_env_reply (s : State) (l : List Input) : (s.setInputs l).env.reply = s.env.reply := rfl
@[simp] theorem State.setInputs_env_trace (s : State) (l : List Input) : (s.setInputs l).env.trace = s.env.trace := rfl
@[simp] theorem State.setInputs_env_mark (s : State) (l : List Input) : (s.setInputs l).env.mark = s.env.mark := rfl
@[simp] theorem State.setInputs_env_draws (s : State) (l : List Input) : (s.setInputs l).env.draws = s.env.draws := rfl

/-! `State.setPlatform` -/

@[simp] theorem State.setPlatform_cfg (s : State) (p : Platform) : (s.setPlatform p).cfg = s.cfg := rfl
@[simp] theorem State.setPlatform_load (s : State) (p : Platform) : (s.setPlatform p).load = s.load := rfl
@[simp] theorem State.setPlatform_mio (s : State) (p : Platform) : (s.setPlatform p).mio = s.mio := rfl
@[simp] theorem State.setPlatform_voices (s : State) (p : Platform) : (s.setPlatform p).voices = s.voices := rfl
@[simp] theorem State.setPlatform_video (s : State) (p : Platform) : (s.setPlatform p).video = s.video := rfl
@[simp] theorem State.setPlatform_tilt (s : State) (p : Platform) : (s.setPlatform p).tilt = s.tilt := rfl
@[simp] theorem State.setPlatform_coin (s : State) (p : Platform) : (s.setPlatform p).coin = s.coin := rfl
@[simp] theorem State.setPlatform_power (s : State) (p : Platform) : (s.setPlatform p).power = s.power := rfl
@[simp] theorem State.setPlatform_det (s : State) (p : Platform) : (s.setPlatform p).det = s.det := rfl
@[simp] theorem State.setPlatform_orch (s : State) (p : Platform) : (s.setPlatform p).orch = s.orch := rfl
@[simp] theorem State.setPlatform_env_inputs (s : State) (p : Platform) : (s.setPlatform p).env.inputs = s.env.inputs := rfl
@[simp] theorem State.setPlatform_env_platform (s : State) (p : Platform) : (s.setPlatform p).env.platform = p := rfl
@[simp] theorem State.setPlatform_env_agent (s : State) (p : Platform) : (s.setPlatform p).env.agent = s.env.agent := rfl
@[simp] theorem State.setPlatform_env_status (s : State) (p : Platform) : (s.setPlatform p).env.status = s.env.status := rfl
@[simp] theorem State.setPlatform_env_st (s : State) (p : Platform) : (s.setPlatform p).env.st = s.env.st := rfl
@[simp] theorem State.setPlatform_env_reply (s : State) (p : Platform) : (s.setPlatform p).env.reply = s.env.reply := rfl
@[simp] theorem State.setPlatform_env_trace (s : State) (p : Platform) : (s.setPlatform p).env.trace = s.env.trace := rfl
@[simp] theorem State.setPlatform_env_mark (s : State) (p : Platform) : (s.setPlatform p).env.mark = s.env.mark := rfl
@[simp] theorem State.setPlatform_env_draws (s : State) (p : Platform) : (s.setPlatform p).env.draws = s.env.draws := rfl

/-! `State.emit` -/

@[simp] theorem State.emit_cfg (s : State) (o : Obs) : (s.emit o).cfg = s.cfg := rfl
@[simp] theorem State.emit_load (s : State) (o : Obs) : (s.emit o).load = s.load := rfl
@[simp] theorem State.emit_mio (s : State) (o : Obs) : (s.emit o).mio = s.mio := rfl
@[simp] theorem State.emit_voices (s : State) (o : Obs) : (s.emit o).voices = s.voices := rfl
@[simp] theorem State.emit_video (s : State) (o : Obs) : (s.emit o).video = s.video := rfl
@[simp] theorem State.emit_tilt (s : State) (o : Obs) : (s.emit o).tilt = s.tilt := rfl
@[simp] theorem State.emit_coin (s : State) (o : Obs) : (s.emit o).coin = s.coin := rfl
@[simp] theorem State.emit_power (s : State) (o : Obs) : (s.emit o).power = s.power := rfl
@[simp] theorem State.emit_det (s : State) (o : Obs) : (s.emit o).det = s.det := rfl
@[simp] theorem State.emit_orch (s : State) (o : Obs) : (s.emit o).orch = s.orch := rfl
@[simp] theorem State.emit_env_inputs (s : State) (o : Obs) : (s.emit o).env.inputs = s.env.inputs := rfl
@[simp] theorem State.emit_env_platform (s : State) (o : Obs) : (s.emit o).env.platform = s.env.platform := rfl
@[simp] theorem State.emit_env_agent (s : State) (o : Obs) : (s.emit o).env.agent = s.env.agent := rfl
@[simp] theorem State.emit_env_status (s : State) (o : Obs) : (s.emit o).env.status = s.env.status := rfl
@[simp] theorem State.emit_env_st (s : State) (o : Obs) : (s.emit o).env.st = s.env.st := rfl
@[simp] theorem State.emit_env_reply (s : State) (o : Obs) : (s.emit o).env.reply = s.env.reply := rfl
@[simp] theorem State.emit_env_trace (s : State) (o : Obs) : (s.emit o).env.trace = s.env.trace ++ [o] := rfl
@[simp] theorem State.emit_env_mark (s : State) (o : Obs) : (s.emit o).env.mark = s.env.mark := rfl
@[simp] theorem State.emit_env_draws (s : State) (o : Obs) : (s.emit o).env.draws = s.env.draws := rfl

/-! `State.raise` -/

@[simp] theorem State.raise_cfg (s : State) (st : Status) : (s.raise st).cfg = s.cfg := rfl
@[simp] theorem State.raise_load (s : State) (st : Status) : (s.raise st).load = s.load := rfl
@[simp] theorem State.raise_mio (s : State) (st : Status) : (s.raise st).mio = s.mio := rfl
@[simp] theorem State.raise_voices (s : State) (st : Status) : (s.raise st).voices = s.voices := rfl
@[simp] theorem State.raise_video (s : State) (st : Status) : (s.raise st).video = s.video := rfl
@[simp] theorem State.raise_tilt (s : State) (st : Status) : (s.raise st).tilt = s.tilt := rfl
@[simp] theorem State.raise_coin (s : State) (st : Status) : (s.raise st).coin = s.coin := rfl
@[simp] theorem State.raise_power (s : State) (st : Status) : (s.raise st).power = s.power := rfl
@[simp] theorem State.raise_det (s : State) (st : Status) : (s.raise st).det = s.det := rfl
@[simp] theorem State.raise_orch (s : State) (st : Status) : (s.raise st).orch = s.orch := rfl
@[simp] theorem State.raise_env_inputs (s : State) (st : Status) : (s.raise st).env.inputs = s.env.inputs := rfl
@[simp] theorem State.raise_env_platform (s : State) (st : Status) : (s.raise st).env.platform = s.env.platform := rfl
@[simp] theorem State.raise_env_agent (s : State) (st : Status) : (s.raise st).env.agent = s.env.agent := rfl
@[simp] theorem State.raise_env_status (s : State) (st : Status) : (s.raise st).env.status = s.env.status := rfl
@[simp] theorem State.raise_env_st (s : State) (st : Status) : (s.raise st).env.st = s.env.st ++ [st] := rfl
@[simp] theorem State.raise_env_reply (s : State) (st : Status) : (s.raise st).env.reply = s.env.reply := rfl
@[simp] theorem State.raise_env_trace (s : State) (st : Status) : (s.raise st).env.trace = s.env.trace := rfl
@[simp] theorem State.raise_env_mark (s : State) (st : Status) : (s.raise st).env.mark = s.env.mark := rfl
@[simp] theorem State.raise_env_draws (s : State) (st : Status) : (s.raise st).env.draws = s.env.draws := rfl

/-! `State.done` -/

@[simp] theorem State.done_cfg (s : State) : (s.done).cfg = s.cfg := rfl
@[simp] theorem State.done_load (s : State) : (s.done).load = s.load := rfl
@[simp] theorem State.done_mio (s : State) : (s.done).mio = s.mio := rfl
@[simp] theorem State.done_voices (s : State) : (s.done).voices = s.voices := rfl
@[simp] theorem State.done_video (s : State) : (s.done).video = s.video := rfl
@[simp] theorem State.done_tilt (s : State) : (s.done).tilt = s.tilt := rfl
@[simp] theorem State.done_coin (s : State) : (s.done).coin = s.coin := rfl
@[simp] theorem State.done_power (s : State) : (s.done).power = s.power := rfl
@[simp] theorem State.done_det (s : State) : (s.done).det = s.det := rfl
@[simp] theorem State.done_orch (s : State) : (s.done).orch = s.orch := rfl
@[simp] theorem State.done_env_inputs (s : State) : (s.done).env.inputs = s.env.inputs := rfl
@[simp] theorem State.done_env_platform (s : State) : (s.done).env.platform = s.env.platform := rfl
@[simp] theorem State.done_env_agent (s : State) : (s.done).env.agent = s.env.agent := rfl
@[simp] theorem State.done_env_status (s : State) : (s.done).env.status = .ok := rfl
@[simp] theorem State.done_env_st (s : State) : (s.done).env.st = s.env.st := rfl
@[simp] theorem State.done_env_reply (s : State) : (s.done).env.reply = .none := rfl
@[simp] theorem State.done_env_trace (s : State) : (s.done).env.trace = s.env.trace := rfl
@[simp] theorem State.done_env_mark (s : State) : (s.done).env.mark = s.env.mark := rfl
@[simp] theorem State.done_env_draws (s : State) : (s.done).env.draws = s.env.draws := rfl

/-! `State.answer` -/

@[simp] theorem State.answer_cfg (s : State) (b : Byte) : (s.answer b).cfg = s.cfg := rfl
@[simp] theorem State.answer_load (s : State) (b : Byte) : (s.answer b).load = s.load := rfl
@[simp] theorem State.answer_mio (s : State) (b : Byte) : (s.answer b).mio = s.mio := rfl
@[simp] theorem State.answer_voices (s : State) (b : Byte) : (s.answer b).voices = s.voices := rfl
@[simp] theorem State.answer_video (s : State) (b : Byte) : (s.answer b).video = s.video := rfl
@[simp] theorem State.answer_tilt (s : State) (b : Byte) : (s.answer b).tilt = s.tilt := rfl
@[simp] theorem State.answer_coin (s : State) (b : Byte) : (s.answer b).coin = s.coin := rfl
@[simp] theorem State.answer_power (s : State) (b : Byte) : (s.answer b).power = s.power := rfl
@[simp] theorem State.answer_det (s : State) (b : Byte) : (s.answer b).det = s.det := rfl
@[simp] theorem State.answer_orch (s : State) (b : Byte) : (s.answer b).orch = s.orch := rfl
@[simp] theorem State.answer_env_inputs (s : State) (b : Byte) : (s.answer b).env.inputs = s.env.inputs := rfl
@[simp] theorem State.answer_env_platform (s : State) (b : Byte) : (s.answer b).env.platform = s.env.platform := rfl
@[simp] theorem State.answer_env_agent (s : State) (b : Byte) : (s.answer b).env.agent = s.env.agent := rfl
@[simp] theorem State.answer_env_status (s : State) (b : Byte) : (s.answer b).env.status = .ok := rfl
@[simp] theorem State.answer_env_st (s : State) (b : Byte) : (s.answer b).env.st = s.env.st := rfl
@[simp] theorem State.answer_env_reply (s : State) (b : Byte) : (s.answer b).env.reply = .byte b := rfl
@[simp] theorem State.answer_env_trace (s : State) (b : Byte) : (s.answer b).env.trace = s.env.trace ++ [.byteTo s.env.agent b] := rfl
@[simp] theorem State.answer_env_mark (s : State) (b : Byte) : (s.answer b).env.mark = s.env.mark := rfl
@[simp] theorem State.answer_env_draws (s : State) (b : Byte) : (s.answer b).env.draws = s.env.draws := rfl

/-! `State.begin` -/

@[simp] theorem State.begin_cfg (s : State) : (s.begin).cfg = s.cfg := rfl
@[simp] theorem State.begin_load (s : State) : (s.begin).load = s.load := rfl
@[simp] theorem State.begin_mio (s : State) : (s.begin).mio = s.mio := rfl
@[simp] theorem State.begin_voices (s : State) : (s.begin).voices = s.voices := rfl
@[simp] theorem State.begin_video (s : State) : (s.begin).video = s.video := rfl
@[simp] theorem State.begin_tilt (s : State) : (s.begin).tilt = s.tilt := rfl
@[simp] theorem State.begin_coin (s : State) : (s.begin).coin = s.coin := rfl
@[simp] theorem State.begin_power (s : State) : (s.begin).power = s.power := rfl
@[simp] theorem State.begin_det (s : State) : (s.begin).det = s.det := rfl
@[simp] theorem State.begin_orch (s : State) : (s.begin).orch = s.orch := rfl
@[simp] theorem State.begin_env_inputs (s : State) : (s.begin).env.inputs = s.env.inputs := rfl
@[simp] theorem State.begin_env_platform (s : State) : (s.begin).env.platform = s.env.platform := rfl
@[simp] theorem State.begin_env_agent (s : State) : (s.begin).env.agent = s.env.agent := rfl
@[simp] theorem State.begin_env_status (s : State) : (s.begin).env.status = s.env.status := rfl
@[simp] theorem State.begin_env_st (s : State) : (s.begin).env.st = [] := rfl
@[simp] theorem State.begin_env_reply (s : State) : (s.begin).env.reply = .none := rfl
@[simp] theorem State.begin_env_trace (s : State) : (s.begin).env.trace = s.env.trace := rfl
@[simp] theorem State.begin_env_mark (s : State) : (s.begin).env.mark = s.env.mark := rfl
@[simp] theorem State.begin_env_draws (s : State) : (s.begin).env.draws = s.env.draws := rfl

/-! `State.finish` -/

@[simp] theorem State.finish_cfg (s : State) : (s.finish).cfg = s.cfg := rfl
@[simp] theorem State.finish_load (s : State) : (s.finish).load = s.load := rfl
@[simp] theorem State.finish_mio (s : State) : (s.finish).mio = s.mio := rfl
@[simp] theorem State.finish_voices (s : State) : (s.finish).voices = s.voices := rfl
@[simp] theorem State.finish_video (s : State) : (s.finish).video = s.video := rfl
@[simp] theorem State.finish_tilt (s : State) : (s.finish).tilt = s.tilt := rfl
@[simp] theorem State.finish_coin (s : State) : (s.finish).coin = s.coin := rfl
@[simp] theorem State.finish_power (s : State) : (s.finish).power = s.power := rfl
@[simp] theorem State.finish_det (s : State) : (s.finish).det = s.det := rfl
@[simp] theorem State.finish_orch (s : State) : (s.finish).orch = s.orch := rfl
@[simp] theorem State.finish_env_inputs (s : State) : (s.finish).env.inputs = s.env.inputs := rfl
@[simp] theorem State.finish_env_platform (s : State) : (s.finish).env.platform = s.env.platform := rfl
@[simp] theorem State.finish_env_agent (s : State) : (s.finish).env.agent = s.env.agent := rfl
@[simp] theorem State.finish_env_status (s : State) : (s.finish).env.status = s.env.st.getLastD .ok := rfl
@[simp] theorem State.finish_env_st (s : State) : (s.finish).env.st = s.env.st := rfl
@[simp] theorem State.finish_env_reply (s : State) : (s.finish).env.reply = s.env.reply := rfl
@[simp] theorem State.finish_env_trace (s : State) : (s.finish).env.trace = s.env.trace := rfl
@[simp] theorem State.finish_env_mark (s : State) : (s.finish).env.mark = s.env.mark := rfl
@[simp] theorem State.finish_env_draws (s : State) : (s.finish).env.draws = s.env.draws := rfl

/-! `State.refuse` -/

@[simp] theorem State.refuse_cfg (s : State) (code : RefusalCode) : (s.refuse code).cfg = s.cfg := rfl
@[simp] theorem State.refuse_load (s : State) (code : RefusalCode) : (s.refuse code).load = s.load := rfl
@[simp] theorem State.refuse_mio (s : State) (code : RefusalCode) : (s.refuse code).mio = s.mio := rfl
@[simp] theorem State.refuse_voices (s : State) (code : RefusalCode) : (s.refuse code).voices = s.voices := rfl
@[simp] theorem State.refuse_video (s : State) (code : RefusalCode) : (s.refuse code).video = s.video := rfl
@[simp] theorem State.refuse_tilt (s : State) (code : RefusalCode) : (s.refuse code).tilt = s.tilt := rfl
@[simp] theorem State.refuse_coin (s : State) (code : RefusalCode) : (s.refuse code).coin = s.coin := rfl
@[simp] theorem State.refuse_power (s : State) (code : RefusalCode) : (s.refuse code).power = s.power := rfl
@[simp] theorem State.refuse_det (s : State) (code : RefusalCode) : (s.refuse code).det = s.det := rfl
@[simp] theorem State.refuse_orch (s : State) (code : RefusalCode) : (s.refuse code).orch = s.orch := rfl
@[simp] theorem State.refuse_env_inputs (s : State) (code : RefusalCode) : (s.refuse code).env.inputs = s.env.inputs := rfl
@[simp] theorem State.refuse_env_platform (s : State) (code : RefusalCode) : (s.refuse code).env.platform = s.env.platform := rfl
@[simp] theorem State.refuse_env_agent (s : State) (code : RefusalCode) : (s.refuse code).env.agent = s.env.agent := rfl
@[simp] theorem State.refuse_env_status (s : State) (code : RefusalCode) : (s.refuse code).env.status = .refused code := rfl
@[simp] theorem State.refuse_env_st (s : State) (code : RefusalCode) : (s.refuse code).env.st = s.env.st := rfl
@[simp] theorem State.refuse_env_reply (s : State) (code : RefusalCode) : (s.refuse code).env.reply = .none := rfl
@[simp] theorem State.refuse_env_trace (s : State) (code : RefusalCode) : (s.refuse code).env.trace = s.env.trace := rfl
@[simp] theorem State.refuse_env_mark (s : State) (code : RefusalCode) : (s.refuse code).env.mark = true := rfl
@[simp] theorem State.refuse_env_draws (s : State) (code : RefusalCode) : (s.refuse code).env.draws = s.env.draws := rfl

/-! `State.answerSamples` -/

@[simp] theorem State.answerSamples_cfg (s : State) (l : List Half) : (s.answerSamples l).cfg = s.cfg := rfl
@[simp] theorem State.answerSamples_load (s : State) (l : List Half) : (s.answerSamples l).load = s.load := rfl
@[simp] theorem State.answerSamples_mio (s : State) (l : List Half) : (s.answerSamples l).mio = s.mio := rfl
@[simp] theorem State.answerSamples_voices (s : State) (l : List Half) : (s.answerSamples l).voices = s.voices := rfl
@[simp] theorem State.answerSamples_video (s : State) (l : List Half) : (s.answerSamples l).video = s.video := rfl
@[simp] theorem State.answerSamples_tilt (s : State) (l : List Half) : (s.answerSamples l).tilt = s.tilt := rfl
@[simp] theorem State.answerSamples_coin (s : State) (l : List Half) : (s.answerSamples l).coin = s.coin := rfl
@[simp] theorem State.answerSamples_power (s : State) (l : List Half) : (s.answerSamples l).power = s.power := rfl
@[simp] theorem State.answerSamples_det (s : State) (l : List Half) : (s.answerSamples l).det = s.det := rfl
@[simp] theorem State.answerSamples_orch (s : State) (l : List Half) : (s.answerSamples l).orch = s.orch := rfl
@[simp] theorem State.answerSamples_env_inputs (s : State) (l : List Half) : (s.answerSamples l).env.inputs = s.env.inputs := rfl
@[simp] theorem State.answerSamples_env_platform (s : State) (l : List Half) : (s.answerSamples l).env.platform = s.env.platform := rfl
@[simp] theorem State.answerSamples_env_agent (s : State) (l : List Half) : (s.answerSamples l).env.agent = s.env.agent := rfl
@[simp] theorem State.answerSamples_env_status (s : State) (l : List Half) : (s.answerSamples l).env.status = s.env.status := rfl
@[simp] theorem State.answerSamples_env_st (s : State) (l : List Half) : (s.answerSamples l).env.st = s.env.st := rfl
@[simp] theorem State.answerSamples_env_reply (s : State) (l : List Half) : (s.answerSamples l).env.reply = .samples l := rfl
@[simp] theorem State.answerSamples_env_trace (s : State) (l : List Half) : (s.answerSamples l).env.trace = s.env.trace ++ [.samplesTo l] := rfl
@[simp] theorem State.answerSamples_env_mark (s : State) (l : List Half) : (s.answerSamples l).env.mark = s.env.mark := rfl
@[simp] theorem State.answerSamples_env_draws (s : State) (l : List Half) : (s.answerSamples l).env.draws = s.env.draws := rfl

/-! `State.deliverInterrupt` -/

@[simp] theorem State.deliverInterrupt_cfg (s : State) : (s.deliverInterrupt).cfg = s.cfg := rfl
@[simp] theorem State.deliverInterrupt_load (s : State) : (s.deliverInterrupt).load = s.load := rfl
@[simp] theorem State.deliverInterrupt_mio (s : State) : (s.deliverInterrupt).mio = s.mio := rfl
@[simp] theorem State.deliverInterrupt_voices (s : State) : (s.deliverInterrupt).voices = s.voices := rfl
@[simp] theorem State.deliverInterrupt_video (s : State) : (s.deliverInterrupt).video = s.video := rfl
@[simp] theorem State.deliverInterrupt_tilt (s : State) : (s.deliverInterrupt).tilt = s.tilt := rfl
@[simp] theorem State.deliverInterrupt_coin (s : State) : (s.deliverInterrupt).coin = s.coin := rfl
@[simp] theorem State.deliverInterrupt_power (s : State) : (s.deliverInterrupt).power = s.power := rfl
@[simp] theorem State.deliverInterrupt_det (s : State) : (s.deliverInterrupt).det = s.det := rfl
@[simp] theorem State.deliverInterrupt_orch (s : State) : (s.deliverInterrupt).orch = s.orch := rfl
@[simp] theorem State.deliverInterrupt_env_inputs (s : State) : (s.deliverInterrupt).env.inputs = s.env.inputs := rfl
@[simp] theorem State.deliverInterrupt_env_platform (s : State) : (s.deliverInterrupt).env.platform = s.env.platform := rfl
@[simp] theorem State.deliverInterrupt_env_agent (s : State) : (s.deliverInterrupt).env.agent = s.env.agent := rfl
@[simp] theorem State.deliverInterrupt_env_status (s : State) : (s.deliverInterrupt).env.status = s.env.status := rfl
@[simp] theorem State.deliverInterrupt_env_st (s : State) : (s.deliverInterrupt).env.st = s.env.st := rfl
@[simp] theorem State.deliverInterrupt_env_reply (s : State) : (s.deliverInterrupt).env.reply = s.env.reply := rfl
@[simp] theorem State.deliverInterrupt_env_trace (s : State) : (s.deliverInterrupt).env.trace = s.env.trace ++ [.cpuInterrupt s.mio.irqvec] := rfl
@[simp] theorem State.deliverInterrupt_env_mark (s : State) : (s.deliverInterrupt).env.mark = s.env.mark := rfl
@[simp] theorem State.deliverInterrupt_env_draws (s : State) : (s.deliverInterrupt).env.draws = s.env.draws := rfl

/-! `State.setPower` -/

@[simp] theorem State.setPower_cfg (s : State) (p : Power) : (s.setPower p).cfg = s.cfg := rfl
@[simp] theorem State.setPower_load (s : State) (p : Power) : (s.setPower p).load = s.load := rfl
@[simp] theorem State.setPower_mio (s : State) (p : Power) : (s.setPower p).mio = s.mio := rfl
@[simp] theorem State.setPower_voices (s : State) (p : Power) : (s.setPower p).voices = s.voices := rfl
@[simp] theorem State.setPower_video (s : State) (p : Power) : (s.setPower p).video = s.video := rfl
@[simp] theorem State.setPower_tilt (s : State) (p : Power) : (s.setPower p).tilt = s.tilt := rfl
@[simp] theorem State.setPower_coin (s : State) (p : Power) : (s.setPower p).coin = s.coin := rfl
@[simp] theorem State.setPower_power (s : State) (p : Power) : (s.setPower p).power = p := rfl
@[simp] theorem State.setPower_det (s : State) (p : Power) : (s.setPower p).det = s.det := rfl
@[simp] theorem State.setPower_orch (s : State) (p : Power) : (s.setPower p).orch = s.orch := rfl
@[simp] theorem State.setPower_env (s : State) (p : Power) : (s.setPower p).env = s.env := rfl

/-! `State.setDet` -/

@[simp] theorem State.setDet_cfg (s : State) (d : Detector) : (s.setDet d).cfg = s.cfg := rfl
@[simp] theorem State.setDet_load (s : State) (d : Detector) : (s.setDet d).load = s.load := rfl
@[simp] theorem State.setDet_mio (s : State) (d : Detector) : (s.setDet d).mio = s.mio := rfl
@[simp] theorem State.setDet_voices (s : State) (d : Detector) : (s.setDet d).voices = s.voices := rfl
@[simp] theorem State.setDet_video (s : State) (d : Detector) : (s.setDet d).video = s.video := rfl
@[simp] theorem State.setDet_tilt (s : State) (d : Detector) : (s.setDet d).tilt = s.tilt := rfl
@[simp] theorem State.setDet_coin (s : State) (d : Detector) : (s.setDet d).coin = s.coin := rfl
@[simp] theorem State.setDet_power (s : State) (d : Detector) : (s.setDet d).power = s.power := rfl
@[simp] theorem State.setDet_det (s : State) (d : Detector) : (s.setDet d).det = d := rfl
@[simp] theorem State.setDet_orch (s : State) (d : Detector) : (s.setDet d).orch = s.orch := rfl
@[simp] theorem State.setDet_env (s : State) (d : Detector) : (s.setDet d).env = s.env := rfl

/-! `State.buildTat` -/

@[simp] theorem State.buildTat_cfg (s : State) : (s.buildTat).cfg = s.cfg := rfl
@[simp] theorem State.buildTat_load (s : State) : (s.buildTat).load = s.load := rfl
@[simp] theorem State.buildTat_mio (s : State) : (s.buildTat).mio = s.mio := rfl
@[simp] theorem State.buildTat_voices (s : State) : (s.buildTat).voices = s.voices := rfl
@[simp] theorem State.buildTat_video_tat (s : State) : (s.buildTat).video.tat = some (tatTable s.cfg.geo) := rfl
@[simp] theorem State.buildTat_video_palx (s : State) : (s.buildTat).video.palx = s.video.palx := rfl
@[simp] theorem State.buildTat_video_asl (s : State) : (s.buildTat).video.asl = s.video.asl := rfl
@[simp] theorem State.buildTat_video_buf0 (s : State) : (s.buildTat).video.buf0 = s.video.buf0 := rfl
@[simp] theorem State.buildTat_video_buf1 (s : State) : (s.buildTat).video.buf1 = s.video.buf1 := rfl
@[simp] theorem State.buildTat_video_owner0 (s : State) : (s.buildTat).video.owner0 = s.video.owner0 := rfl
@[simp] theorem State.buildTat_video_owner1 (s : State) : (s.buildTat).video.owner1 = s.video.owner1 := rfl
@[simp] theorem State.buildTat_video_dispBusy (s : State) : (s.buildTat).video.dispBusy = s.video.dispBusy := rfl
@[simp] theorem State.buildTat_tilt (s : State) : (s.buildTat).tilt = s.tilt := rfl
@[simp] theorem State.buildTat_coin (s : State) : (s.buildTat).coin = s.coin := rfl
@[simp] theorem State.buildTat_power (s : State) : (s.buildTat).power = s.power := rfl
@[simp] theorem State.buildTat_det (s : State) : (s.buildTat).det = s.det := rfl
@[simp] theorem State.buildTat_orch (s : State) : (s.buildTat).orch = s.orch := rfl
@[simp] theorem State.buildTat_env (s : State) : (s.buildTat).env = s.env := rfl

/-! `State.buildPal` -/

@[simp] theorem State.buildPal_cfg (s : State) : (s.buildPal).cfg = s.cfg := rfl
@[simp] theorem State.buildPal_load (s : State) : (s.buildPal).load = s.load := rfl
@[simp] theorem State.buildPal_mio (s : State) : (s.buildPal).mio = s.mio := rfl
@[simp] theorem State.buildPal_voices (s : State) : (s.buildPal).voices = s.voices := rfl
@[simp] theorem State.buildPal_video_tat (s : State) : (s.buildPal).video.tat = s.video.tat := rfl
@[simp] theorem State.buildPal_video_palx (s : State) : (s.buildPal).video.palx = some (palxTable s.cfg s.load) := rfl
@[simp] theorem State.buildPal_video_asl (s : State) : (s.buildPal).video.asl = s.video.asl := rfl
@[simp] theorem State.buildPal_video_buf0 (s : State) : (s.buildPal).video.buf0 = s.video.buf0 := rfl
@[simp] theorem State.buildPal_video_buf1 (s : State) : (s.buildPal).video.buf1 = s.video.buf1 := rfl
@[simp] theorem State.buildPal_video_owner0 (s : State) : (s.buildPal).video.owner0 = s.video.owner0 := rfl
@[simp] theorem State.buildPal_video_owner1 (s : State) : (s.buildPal).video.owner1 = s.video.owner1 := rfl
@[simp] theorem State.buildPal_video_dispBusy (s : State) : (s.buildPal).video.dispBusy = s.video.dispBusy := rfl
@[simp] theorem State.buildPal_tilt (s : State) : (s.buildPal).tilt = s.tilt := rfl
@[simp] theorem State.buildPal_coin (s : State) : (s.buildPal).coin = s.coin := rfl
@[simp] theorem State.buildPal_power (s : State) : (s.buildPal).power = s.power := rfl
@[simp] theorem State.buildPal_det (s : State) : (s.buildPal).det = s.det := rfl
@[simp] theorem State.buildPal_orch (s : State) : (s.buildPal).orch = s.orch := rfl
@[simp] theorem State.buildPal_env (s : State) : (s.buildPal).env = s.env := rfl

/-! `State.prepSprites` -/

@[simp] theorem State.prepSprites_cfg (s : State) : (s.prepSprites).cfg = s.cfg := rfl
@[simp] theorem State.prepSprites_load (s : State) : (s.prepSprites).load = s.load := rfl
@[simp] theorem State.prepSprites_mio (s : State) : (s.prepSprites).mio = s.mio := rfl
@[simp] theorem State.prepSprites_voices (s : State) : (s.prepSprites).voices = s.voices := rfl
@[simp] theorem State.prepSprites_video_tat (s : State) : (s.prepSprites).video.tat = s.video.tat := rfl
@[simp] theorem State.prepSprites_video_palx (s : State) : (s.prepSprites).video.palx = s.video.palx := rfl
@[simp] theorem State.prepSprites_video_buf0 (s : State) : (s.prepSprites).video.buf0 = s.video.buf0 := rfl
@[simp] theorem State.prepSprites_video_buf1 (s : State) : (s.prepSprites).video.buf1 = s.video.buf1 := rfl
@[simp] theorem State.prepSprites_video_owner0 (s : State) : (s.prepSprites).video.owner0 = s.video.owner0 := rfl
@[simp] theorem State.prepSprites_video_owner1 (s : State) : (s.prepSprites).video.owner1 = s.video.owner1 := rfl
@[simp] theorem State.prepSprites_video_dispBusy (s : State) : (s.prepSprites).video.dispBusy = s.video.dispBusy := rfl
@[simp] theorem State.prepSprites_tilt (s : State) : (s.prepSprites).tilt = s.tilt := rfl
@[simp] theorem State.prepSprites_coin (s : State) : (s.prepSprites).coin = s.coin := rfl
@[simp] theorem State.prepSprites_power (s : State) : (s.prepSprites).power = s.power := rfl
@[simp] theorem State.prepSprites_det (s : State) : (s.prepSprites).det = s.det := rfl
@[simp] theorem State.prepSprites_orch (s : State) : (s.prepSprites).orch = s.orch := rfl
@[simp] theorem State.prepSprites_env (s : State) : (s.prepSprites).env = s.env := rfl

/-! `State.parseSound` -/

@[simp] theorem State.parseSound_cfg (s : State) : (s.parseSound).cfg = s.cfg := rfl
@[simp] theorem State.parseSound_load (s : State) : (s.parseSound).load = s.load := rfl
@[simp] theorem State.parseSound_mio (s : State) : (s.parseSound).mio = s.mio := rfl
@[simp] theorem State.parseSound_video (s : State) : (s.parseSound).video = s.video := rfl
@[simp] theorem State.parseSound_tilt (s : State) : (s.parseSound).tilt = s.tilt := rfl
@[simp] theorem State.parseSound_coin (s : State) : (s.parseSound).coin = s.coin := rfl
@[simp] theorem State.parseSound_power (s : State) : (s.parseSound).power = s.power := rfl
@[simp] theorem State.parseSound_det (s : State) : (s.parseSound).det = s.det := rfl
@[simp] theorem State.parseSound_orch (s : State) : (s.parseSound).orch = s.orch := rfl
@[simp] theorem State.parseSound_env (s : State) : (s.parseSound).env = s.env := rfl

/-! `State.advanceVoices` -/

@[simp] theorem State.advanceVoices_cfg (s : State) (n : Nat) : (s.advanceVoices n).cfg = s.cfg := rfl
@[simp] theorem State.advanceVoices_load (s : State) (n : Nat) : (s.advanceVoices n).load = s.load := rfl
@[simp] theorem State.advanceVoices_mio (s : State) (n : Nat) : (s.advanceVoices n).mio = s.mio := rfl
@[simp] theorem State.advanceVoices_voices (s : State) (n : Nat) : (s.advanceVoices n).voices = renderVoices s.cfg.wsg n s.voices := rfl
@[simp] theorem State.advanceVoices_video (s : State) (n : Nat) : (s.advanceVoices n).video = s.video := rfl
@[simp] theorem State.advanceVoices_tilt (s : State) (n : Nat) : (s.advanceVoices n).tilt = s.tilt := rfl
@[simp] theorem State.advanceVoices_coin (s : State) (n : Nat) : (s.advanceVoices n).coin = s.coin := rfl
@[simp] theorem State.advanceVoices_power (s : State) (n : Nat) : (s.advanceVoices n).power = s.power := rfl
@[simp] theorem State.advanceVoices_det (s : State) (n : Nat) : (s.advanceVoices n).det = s.det := rfl
@[simp] theorem State.advanceVoices_orch (s : State) (n : Nat) : (s.advanceVoices n).orch = s.orch := rfl
@[simp] theorem State.advanceVoices_env (s : State) (n : Nat) : (s.advanceVoices n).env = s.env := rfl

/-! `State.beginOp` -/

@[simp] theorem State.beginOp_cfg (s : State) : (s.beginOp).cfg = s.cfg := by
  unfold State.beginOp; split <;> rfl
@[simp] theorem State.beginOp_load (s : State) : (s.beginOp).load = s.load := by
  unfold State.beginOp; split <;> rfl
@[simp] theorem State.beginOp_mio (s : State) : (s.beginOp).mio = s.mio := by
  unfold State.beginOp; split <;> rfl
@[simp] theorem State.beginOp_voices (s : State) : (s.beginOp).voices = s.voices := by
  unfold State.beginOp; split <;> rfl
@[simp] theorem State.beginOp_video (s : State) : (s.beginOp).video = s.video := by
  unfold State.beginOp; split <;> rfl
@[simp] theorem State.beginOp_tilt (s : State) : (s.beginOp).tilt = s.tilt := by
  unfold State.beginOp; split <;> rfl
@[simp] theorem State.beginOp_coin (s : State) : (s.beginOp).coin = s.coin := by
  unfold State.beginOp; split <;> rfl
@[simp] theorem State.beginOp_power (s : State) : (s.beginOp).power = s.power := by
  unfold State.beginOp; split <;> rfl
@[simp] theorem State.beginOp_det (s : State) : (s.beginOp).det = s.det := by
  unfold State.beginOp; split <;> rfl
@[simp] theorem State.beginOp_orch (s : State) : (s.beginOp).orch = s.orch := by
  unfold State.beginOp; split <;> rfl
@[simp] theorem State.beginOp_env_inputs (s : State) : (s.beginOp).env.inputs = s.env.inputs := by
  unfold State.beginOp; split <;> rfl
@[simp] theorem State.beginOp_env_platform (s : State) : (s.beginOp).env.platform = s.env.platform := by
  unfold State.beginOp; split <;> rfl
@[simp] theorem State.beginOp_env_agent (s : State) : (s.beginOp).env.agent = s.env.agent := by
  unfold State.beginOp; split <;> rfl
@[simp] theorem State.beginOp_env_status (s : State) : (s.beginOp).env.status = s.env.status := by
  unfold State.beginOp; split <;> rfl
@[simp] theorem State.beginOp_env_trace (s : State) : (s.beginOp).env.trace = s.env.trace := by
  unfold State.beginOp; split <;> rfl
@[simp] theorem State.beginOp_env_mark (s : State) : (s.beginOp).env.mark = s.env.mark := by
  unfold State.beginOp; split <;> rfl
@[simp] theorem State.beginOp_env_draws (s : State) : (s.beginOp).env.draws = s.env.draws := by
  unfold State.beginOp; split <;> rfl

/-! `State.finishOp` -/

@[simp] theorem State.finishOp_cfg (s : State) : (s.finishOp).cfg = s.cfg := by
  unfold State.finishOp; split <;> rfl
@[simp] theorem State.finishOp_load (s : State) : (s.finishOp).load = s.load := by
  unfold State.finishOp; split <;> rfl
@[simp] theorem State.finishOp_mio (s : State) : (s.finishOp).mio = s.mio := by
  unfold State.finishOp; split <;> rfl
@[simp] theorem State.finishOp_voices (s : State) : (s.finishOp).voices = s.voices := by
  unfold State.finishOp; split <;> rfl
@[simp] theorem State.finishOp_video (s : State) : (s.finishOp).video = s.video := by
  unfold State.finishOp; split <;> rfl
@[simp] theorem State.finishOp_tilt (s : State) : (s.finishOp).tilt = s.tilt := by
  unfold State.finishOp; split <;> rfl
@[simp] theorem State.finishOp_coin (s : State) : (s.finishOp).coin = s.coin := by
  unfold State.finishOp; split <;> rfl
@[simp] theorem State.finishOp_power (s : State) : (s.finishOp).power = s.power := by
  unfold State.finishOp; split <;> rfl
@[simp] theorem State.finishOp_det (s : State) : (s.finishOp).det = s.det := by
  unfold State.finishOp; split <;> rfl
@[simp] theorem State.finishOp_orch (s : State) : (s.finishOp).orch = s.orch := by
  unfold State.finishOp; split <;> rfl
@[simp] theorem State.finishOp_env_inputs (s : State) : (s.finishOp).env.inputs = s.env.inputs := by
  unfold State.finishOp; split <;> rfl
@[simp] theorem State.finishOp_env_platform (s : State) : (s.finishOp).env.platform = s.env.platform := by
  unfold State.finishOp; split <;> rfl
@[simp] theorem State.finishOp_env_agent (s : State) : (s.finishOp).env.agent = s.env.agent := by
  unfold State.finishOp; split <;> rfl
@[simp] theorem State.finishOp_env_st (s : State) : (s.finishOp).env.st = s.env.st := by
  unfold State.finishOp; split <;> rfl
@[simp] theorem State.finishOp_env_reply (s : State) : (s.finishOp).env.reply = s.env.reply := by
  unfold State.finishOp; split <;> rfl
@[simp] theorem State.finishOp_env_trace (s : State) : (s.finishOp).env.trace = s.env.trace := by
  unfold State.finishOp; split <;> rfl
@[simp] theorem State.finishOp_env_mark (s : State) : (s.finishOp).env.mark = s.env.mark := by
  unfold State.finishOp; split <;> rfl
@[simp] theorem State.finishOp_env_draws (s : State) : (s.finishOp).env.draws = s.env.draws := by
  unfold State.finishOp; split <;> rfl

/-! `State.beginLong` -/

@[simp] theorem State.beginLong_cfg (s : State) : (s.beginLong).cfg = s.cfg := by
  unfold State.beginLong; split <;> rfl
@[simp] theorem State.beginLong_load (s : State) : (s.beginLong).load = s.load := by
  unfold State.beginLong; split <;> rfl
@[simp] theorem State.beginLong_mio (s : State) : (s.beginLong).mio = s.mio := by
  unfold State.beginLong; split <;> rfl
@[simp] theorem State.beginLong_voices (s : State) : (s.beginLong).voices = s.voices := by
  unfold State.beginLong; split <;> rfl
@[simp] theorem State.beginLong_video (s : State) : (s.beginLong).video = s.video := by
  unfold State.beginLong; split <;> rfl
@[simp] theorem State.beginLong_tilt (s : State) : (s.beginLong).tilt = s.tilt := by
  unfold State.beginLong; split <;> rfl
@[simp] theorem State.beginLong_coin (s : State) : (s.beginLong).coin = s.coin := by
  unfold State.beginLong; split <;> rfl
@[simp] theorem State.beginLong_power (s : State) : (s.beginLong).power = s.power := by
  unfold State.beginLong; split <;> rfl
@[simp] theorem State.beginLong_det (s : State) : (s.beginLong).det = s.det := by
  unfold State.beginLong; split <;> rfl
@[simp] theorem State.beginLong_orch_phase (s : State) : (s.beginLong).orch.phase = s.orch.phase := by
  unfold State.beginLong; split <;> rfl
@[simp] theorem State.beginLong_orch_bandJ (s : State) : (s.beginLong).orch.bandJ = s.orch.bandJ := by
  unfold State.beginLong; split <;> rfl
@[simp] theorem State.beginLong_orch_tickT0 (s : State) : (s.beginLong).orch.tickT0 = s.orch.tickT0 := by
  unfold State.beginLong; split <;> rfl
@[simp] theorem State.beginLong_orch_fault (s : State) : (s.beginLong).orch.fault = s.orch.fault := by
  unfold State.beginLong; split <;> rfl
@[simp] theorem State.beginLong_orch_cutDue (s : State) : (s.beginLong).orch.cutDue = s.orch.cutDue := by
  unfold State.beginLong; split <;> rfl
@[simp] theorem State.beginLong_env_inputs (s : State) : (s.beginLong).env.inputs = s.env.inputs := by
  unfold State.beginLong; split <;> rfl
@[simp] theorem State.beginLong_env_platform (s : State) : (s.beginLong).env.platform = s.env.platform := by
  unfold State.beginLong; split <;> rfl
@[simp] theorem State.beginLong_env_agent (s : State) : (s.beginLong).env.agent = s.env.agent := by
  unfold State.beginLong; split <;> rfl
@[simp] theorem State.beginLong_env_status (s : State) : (s.beginLong).env.status = s.env.status := by
  unfold State.beginLong; split <;> rfl
@[simp] theorem State.beginLong_env_trace (s : State) : (s.beginLong).env.trace = s.env.trace := by
  unfold State.beginLong; split <;> rfl
@[simp] theorem State.beginLong_env_mark (s : State) : (s.beginLong).env.mark = s.env.mark := by
  unfold State.beginLong; split <;> rfl
@[simp] theorem State.beginLong_env_draws (s : State) : (s.beginLong).env.draws = s.env.draws := by
  unfold State.beginLong; split <;> rfl

/-! `State.backToTickStart` -/

@[simp] theorem State.backToTickStart_cfg (s : State) : (s.backToTickStart).cfg = s.cfg := rfl
@[simp] theorem State.backToTickStart_load (s : State) : (s.backToTickStart).load = s.load := rfl
@[simp] theorem State.backToTickStart_mio (s : State) : (s.backToTickStart).mio = s.mio := rfl
@[simp] theorem State.backToTickStart_voices (s : State) : (s.backToTickStart).voices = s.voices := rfl
@[simp] theorem State.backToTickStart_video (s : State) : (s.backToTickStart).video = s.video := rfl
@[simp] theorem State.backToTickStart_tilt (s : State) : (s.backToTickStart).tilt = s.tilt := rfl
@[simp] theorem State.backToTickStart_coin (s : State) : (s.backToTickStart).coin = s.coin := rfl
@[simp] theorem State.backToTickStart_power (s : State) : (s.backToTickStart).power = s.power := rfl
@[simp] theorem State.backToTickStart_det (s : State) : (s.backToTickStart).det = s.det := rfl
@[simp] theorem State.backToTickStart_orch_phase (s : State) : (s.backToTickStart).orch.phase = .tickStart := rfl
@[simp] theorem State.backToTickStart_orch_bandJ (s : State) : (s.backToTickStart).orch.bandJ = s.orch.bandJ := rfl
@[simp] theorem State.backToTickStart_orch_tickT0 (s : State) : (s.backToTickStart).orch.tickT0 = s.orch.tickT0 := rfl
@[simp] theorem State.backToTickStart_orch_fault (s : State) : (s.backToTickStart).orch.fault = s.orch.fault := rfl
@[simp] theorem State.backToTickStart_orch_hostOp (s : State) : (s.backToTickStart).orch.hostOp = false := rfl
@[simp] theorem State.backToTickStart_orch_cutDue (s : State) : (s.backToTickStart).orch.cutDue = s.orch.cutDue := rfl
@[simp] theorem State.backToTickStart_env_inputs (s : State) : (s.backToTickStart).env.inputs = s.env.inputs := rfl
@[simp] theorem State.backToTickStart_env_platform (s : State) : (s.backToTickStart).env.platform = s.env.platform := rfl
@[simp] theorem State.backToTickStart_env_agent (s : State) : (s.backToTickStart).env.agent = s.env.agent := rfl
@[simp] theorem State.backToTickStart_env_status (s : State) : (s.backToTickStart).env.status = s.env.st.getLastD .ok := rfl
@[simp] theorem State.backToTickStart_env_st (s : State) : (s.backToTickStart).env.st = s.env.st := rfl
@[simp] theorem State.backToTickStart_env_reply (s : State) : (s.backToTickStart).env.reply = s.env.reply := rfl
@[simp] theorem State.backToTickStart_env_trace (s : State) : (s.backToTickStart).env.trace = s.env.trace := rfl
@[simp] theorem State.backToTickStart_env_mark (s : State) : (s.backToTickStart).env.mark = s.env.mark := rfl
@[simp] theorem State.backToTickStart_env_draws (s : State) : (s.backToTickStart).env.draws = s.env.draws := rfl

/-! `State.runCpu` -/

@[simp] theorem State.runCpu_cfg (s : State) : (s.runCpu).cfg = s.cfg := rfl
@[simp] theorem State.runCpu_load (s : State) : (s.runCpu).load = s.load := rfl
@[simp] theorem State.runCpu_mio (s : State) : (s.runCpu).mio = s.mio := rfl
@[simp] theorem State.runCpu_voices (s : State) : (s.runCpu).voices = s.voices := rfl
@[simp] theorem State.runCpu_video (s : State) : (s.runCpu).video = s.video := rfl
@[simp] theorem State.runCpu_tilt (s : State) : (s.runCpu).tilt = s.tilt := rfl
@[simp] theorem State.runCpu_coin (s : State) : (s.runCpu).coin = s.coin := rfl
@[simp] theorem State.runCpu_power (s : State) : (s.runCpu).power = s.power := rfl
@[simp] theorem State.runCpu_det (s : State) : (s.runCpu).det = s.det := rfl
@[simp] theorem State.runCpu_orch_phase (s : State) : (s.runCpu).orch.phase = .cpuExec := rfl
@[simp] theorem State.runCpu_orch_bandJ (s : State) : (s.runCpu).orch.bandJ = s.orch.bandJ := rfl
@[simp] theorem State.runCpu_orch_tickT0 (s : State) : (s.runCpu).orch.tickT0 = s.orch.tickT0 := rfl
@[simp] theorem State.runCpu_orch_fault (s : State) : (s.runCpu).orch.fault = s.orch.fault := rfl
@[simp] theorem State.runCpu_orch_hostOp (s : State) : (s.runCpu).orch.hostOp = s.orch.hostOp := rfl
@[simp] theorem State.runCpu_orch_cutDue (s : State) : (s.runCpu).orch.cutDue = s.orch.cutDue := rfl
@[simp] theorem State.runCpu_env_inputs (s : State) : (s.runCpu).env.inputs = s.env.inputs := rfl
@[simp] theorem State.runCpu_env_platform (s : State) : (s.runCpu).env.platform = s.env.platform := rfl
@[simp] theorem State.runCpu_env_agent (s : State) : (s.runCpu).env.agent = s.env.agent := rfl
@[simp] theorem State.runCpu_env_status (s : State) : (s.runCpu).env.status = s.env.status := rfl
@[simp] theorem State.runCpu_env_st (s : State) : (s.runCpu).env.st = s.env.st := rfl
@[simp] theorem State.runCpu_env_reply (s : State) : (s.runCpu).env.reply = s.env.reply := rfl
@[simp] theorem State.runCpu_env_trace (s : State) : (s.runCpu).env.trace = s.env.trace ++ [.cpuExecute s.cfg.orch.cpuBudget] := rfl
@[simp] theorem State.runCpu_env_mark (s : State) : (s.runCpu).env.mark = s.env.mark := rfl
@[simp] theorem State.runCpu_env_draws (s : State) : (s.runCpu).env.draws = s.env.draws := rfl

/-! `State.creditReset` -/

@[simp] theorem State.creditReset_cfg (s : State) : (s.creditReset).cfg = s.cfg := rfl
@[simp] theorem State.creditReset_load (s : State) : (s.creditReset).load = s.load := rfl
@[simp] theorem State.creditReset_mio_snd (s : State) : (s.creditReset).mio.snd = s.mio.snd := rfl
@[simp] theorem State.creditReset_mio_irqvec (s : State) : (s.creditReset).mio.irqvec = s.mio.irqvec := rfl
@[simp] theorem State.creditReset_mio_in0 (s : State) : (s.creditReset).mio.in0 = s.mio.in0 := rfl
@[simp] theorem State.creditReset_mio_in1 (s : State) : (s.creditReset).mio.in1 = s.mio.in1 := rfl
@[simp] theorem State.creditReset_voices (s : State) : (s.creditReset).voices = s.voices := rfl
@[simp] theorem State.creditReset_video (s : State) : (s.creditReset).video = s.video := rfl
@[simp] theorem State.creditReset_tilt (s : State) : (s.creditReset).tilt = s.tilt := rfl
@[simp] theorem State.creditReset_coin (s : State) : (s.creditReset).coin = s.coin := rfl
@[simp] theorem State.creditReset_power (s : State) : (s.creditReset).power = s.power := rfl
@[simp] theorem State.creditReset_det (s : State) : (s.creditReset).det = s.det := rfl
@[simp] theorem State.creditReset_orch (s : State) : (s.creditReset).orch = s.orch := rfl
@[simp] theorem State.creditReset_env (s : State) : (s.creditReset).env = s.env := rfl

/-! `State.drawTiles` -/

@[simp] theorem State.drawTiles_cfg (s : State) (k : Nat) (b : Nat) : (s.drawTiles k b).cfg = s.cfg := by simp [State.drawTiles]
@[simp] theorem State.drawTiles_load (s : State) (k : Nat) (b : Nat) : (s.drawTiles k b).load = s.load := by simp [State.drawTiles]
@[simp] theorem State.drawTiles_mio (s : State) (k : Nat) (b : Nat) : (s.drawTiles k b).mio = s.mio := by simp [State.drawTiles]
@[simp] theorem State.drawTiles_voices (s : State) (k : Nat) (b : Nat) : (s.drawTiles k b).voices = s.voices := by simp [State.drawTiles]
@[simp] theorem State.drawTiles_video_tat (s : State) (k : Nat) (b : Nat) : (s.drawTiles k b).video.tat = s.video.tat := by simp [State.drawTiles]
@[simp] theorem State.drawTiles_video_palx (s : State) (k : Nat) (b : Nat) : (s.drawTiles k b).video.palx = s.video.palx := by simp [State.drawTiles]
@[simp] theorem State.drawTiles_video_asl (s : State) (k : Nat) (b : Nat) : (s.drawTiles k b).video.asl = s.video.asl := by simp [State.drawTiles]
@[simp] theorem State.drawTiles_video_owner0 (s : State) (k : Nat) (b : Nat) : (s.drawTiles k b).video.owner0 = s.video.owner0 := by simp [State.drawTiles]
@[simp] theorem State.drawTiles_video_owner1 (s : State) (k : Nat) (b : Nat) : (s.drawTiles k b).video.owner1 = s.video.owner1 := by simp [State.drawTiles]
@[simp] theorem State.drawTiles_video_dispBusy (s : State) (k : Nat) (b : Nat) : (s.drawTiles k b).video.dispBusy = s.video.dispBusy := by simp [State.drawTiles]
@[simp] theorem State.drawTiles_tilt (s : State) (k : Nat) (b : Nat) : (s.drawTiles k b).tilt = s.tilt := by simp [State.drawTiles]
@[simp] theorem State.drawTiles_coin (s : State) (k : Nat) (b : Nat) : (s.drawTiles k b).coin = s.coin := by simp [State.drawTiles]
@[simp] theorem State.drawTiles_power (s : State) (k : Nat) (b : Nat) : (s.drawTiles k b).power = s.power := by simp [State.drawTiles]
@[simp] theorem State.drawTiles_det (s : State) (k : Nat) (b : Nat) : (s.drawTiles k b).det = s.det := by simp [State.drawTiles]
@[simp] theorem State.drawTiles_orch (s : State) (k : Nat) (b : Nat) : (s.drawTiles k b).orch = s.orch := by simp [State.drawTiles]
@[simp] theorem State.drawTiles_env (s : State) (k : Nat) (b : Nat) : (s.drawTiles k b).env = s.env := by simp [State.drawTiles]

/-! `State.drawSprites` -/

@[simp] theorem State.drawSprites_cfg (s : State) (k : Nat) (b : Nat) : (s.drawSprites k b).cfg = s.cfg := by simp [State.drawSprites]
@[simp] theorem State.drawSprites_load (s : State) (k : Nat) (b : Nat) : (s.drawSprites k b).load = s.load := by simp [State.drawSprites]
@[simp] theorem State.drawSprites_mio (s : State) (k : Nat) (b : Nat) : (s.drawSprites k b).mio = s.mio := by simp [State.drawSprites]
@[simp] theorem State.drawSprites_voices (s : State) (k : Nat) (b : Nat) : (s.drawSprites k b).voices = s.voices := by simp [State.drawSprites]
@[simp] theorem State.drawSprites_video_tat (s : State) (k : Nat) (b : Nat) : (s.drawSprites k b).video.tat = s.video.tat := by simp [State.drawSprites]
@[simp] theorem State.drawSprites_video_palx (s : State) (k : Nat) (b : Nat) : (s.drawSprites k b).video.palx = s.video.palx := by simp [State.drawSprites]
@[simp] theorem State.drawSprites_video_asl (s : State) (k : Nat) (b : Nat) : (s.drawSprites k b).video.asl = s.video.asl := by simp [State.drawSprites]
@[simp] theorem State.drawSprites_video_owner0 (s : State) (k : Nat) (b : Nat) : (s.drawSprites k b).video.owner0 = s.video.owner0 := by simp [State.drawSprites]
@[simp] theorem State.drawSprites_video_owner1 (s : State) (k : Nat) (b : Nat) : (s.drawSprites k b).video.owner1 = s.video.owner1 := by simp [State.drawSprites]
@[simp] theorem State.drawSprites_video_dispBusy (s : State) (k : Nat) (b : Nat) : (s.drawSprites k b).video.dispBusy = s.video.dispBusy := by simp [State.drawSprites]
@[simp] theorem State.drawSprites_tilt (s : State) (k : Nat) (b : Nat) : (s.drawSprites k b).tilt = s.tilt := by simp [State.drawSprites]
@[simp] theorem State.drawSprites_coin (s : State) (k : Nat) (b : Nat) : (s.drawSprites k b).coin = s.coin := by simp [State.drawSprites]
@[simp] theorem State.drawSprites_power (s : State) (k : Nat) (b : Nat) : (s.drawSprites k b).power = s.power := by simp [State.drawSprites]
@[simp] theorem State.drawSprites_det (s : State) (k : Nat) (b : Nat) : (s.drawSprites k b).det = s.det := by simp [State.drawSprites]
@[simp] theorem State.drawSprites_orch (s : State) (k : Nat) (b : Nat) : (s.drawSprites k b).orch = s.orch := by simp [State.drawSprites]
@[simp] theorem State.drawSprites_env (s : State) (k : Nat) (b : Nat) : (s.drawSprites k b).env = s.env := by simp [State.drawSprites]

/-! `State.renderBand` -/

@[simp] theorem State.renderBand_cfg (s : State) (k : Nat) (b : Nat) : (s.renderBand k b).cfg = s.cfg := by simp [State.renderBand]
@[simp] theorem State.renderBand_load (s : State) (k : Nat) (b : Nat) : (s.renderBand k b).load = s.load := by simp [State.renderBand]
@[simp] theorem State.renderBand_mio (s : State) (k : Nat) (b : Nat) : (s.renderBand k b).mio = s.mio := by simp [State.renderBand]
@[simp] theorem State.renderBand_voices (s : State) (k : Nat) (b : Nat) : (s.renderBand k b).voices = s.voices := by simp [State.renderBand]
@[simp] theorem State.renderBand_video_tat (s : State) (k : Nat) (b : Nat) : (s.renderBand k b).video.tat = s.video.tat := by simp [State.renderBand]
@[simp] theorem State.renderBand_video_palx (s : State) (k : Nat) (b : Nat) : (s.renderBand k b).video.palx = s.video.palx := by simp [State.renderBand]
@[simp] theorem State.renderBand_video_asl (s : State) (k : Nat) (b : Nat) : (s.renderBand k b).video.asl = s.video.asl := by simp [State.renderBand]
@[simp] theorem State.renderBand_video_dispBusy (s : State) (k : Nat) (b : Nat) : (s.renderBand k b).video.dispBusy = s.video.dispBusy := by simp [State.renderBand]
@[simp] theorem State.renderBand_tilt (s : State) (k : Nat) (b : Nat) : (s.renderBand k b).tilt = s.tilt := by simp [State.renderBand]
@[simp] theorem State.renderBand_coin (s : State) (k : Nat) (b : Nat) : (s.renderBand k b).coin = s.coin := by simp [State.renderBand]
@[simp] theorem State.renderBand_power (s : State) (k : Nat) (b : Nat) : (s.renderBand k b).power = s.power := by simp [State.renderBand]
@[simp] theorem State.renderBand_det (s : State) (k : Nat) (b : Nat) : (s.renderBand k b).det = s.det := by simp [State.renderBand]
@[simp] theorem State.renderBand_orch (s : State) (k : Nat) (b : Nat) : (s.renderBand k b).orch = s.orch := by simp [State.renderBand]
@[simp] theorem State.renderBand_env (s : State) (k : Nat) (b : Nat) : (s.renderBand k b).env = s.env := by simp [State.renderBand]

/-! `State.refillAudio` -/

@[simp] theorem State.refillAudio_cfg (s : State) : (s.refillAudio).cfg = s.cfg := by
  unfold State.refillAudio; split <;> rfl
@[simp] theorem State.refillAudio_load (s : State) : (s.refillAudio).load = s.load := by
  unfold State.refillAudio; split <;> rfl
@[simp] theorem State.refillAudio_mio (s : State) : (s.refillAudio).mio = s.mio := by
  unfold State.refillAudio; split <;> rfl
@[simp] theorem State.refillAudio_voices (s : State) : (s.refillAudio).voices = renderVoices s.cfg.wsg s.cfg.wsg.audioSlice s.voices := by
  unfold State.refillAudio; split <;> rfl
@[simp] theorem State.refillAudio_video (s : State) : (s.refillAudio).video = s.video := by
  unfold State.refillAudio; split <;> rfl
@[simp] theorem State.refillAudio_tilt (s : State) : (s.refillAudio).tilt = s.tilt := by
  unfold State.refillAudio; split <;> rfl
@[simp] theorem State.refillAudio_coin (s : State) : (s.refillAudio).coin = s.coin := by
  unfold State.refillAudio; split <;> rfl
@[simp] theorem State.refillAudio_power (s : State) : (s.refillAudio).power = s.power := by
  unfold State.refillAudio; split <;> rfl
@[simp] theorem State.refillAudio_det (s : State) : (s.refillAudio).det = s.det := by
  unfold State.refillAudio; split <;> rfl
@[simp] theorem State.refillAudio_orch (s : State) : (s.refillAudio).orch = s.orch := by
  unfold State.refillAudio; split <;> rfl
@[simp] theorem State.refillAudio_env_inputs (s : State) : (s.refillAudio).env.inputs = s.env.inputs := by
  unfold State.refillAudio; split <;> rfl
@[simp] theorem State.refillAudio_env_platform (s : State) : (s.refillAudio).env.platform = s.env.platform := by
  unfold State.refillAudio; split <;> rfl
@[simp] theorem State.refillAudio_env_agent (s : State) : (s.refillAudio).env.agent = s.env.agent := by
  unfold State.refillAudio; split <;> rfl
@[simp] theorem State.refillAudio_env_status (s : State) : (s.refillAudio).env.status = s.env.status := by
  unfold State.refillAudio; split <;> rfl
@[simp] theorem State.refillAudio_env_reply (s : State) : (s.refillAudio).env.reply = s.env.reply := by
  unfold State.refillAudio; split <;> rfl
@[simp] theorem State.refillAudio_env_trace (s : State) : (s.refillAudio).env.trace = s.env.trace ++ [.audTransmit (s.renderSamples s.cfg.wsg.audioSlice) s.cfg.wsg.audioSlice s.env.platform.audRoom] := by
  unfold State.refillAudio; split <;> rfl
@[simp] theorem State.refillAudio_env_mark (s : State) : (s.refillAudio).env.mark = s.env.mark := by
  unfold State.refillAudio; split <;> rfl
@[simp] theorem State.refillAudio_env_draws (s : State) : (s.refillAudio).env.draws = s.env.draws := by
  unfold State.refillAudio; split <;> rfl

/-! `State.sampleInput` -/

@[simp] theorem State.sampleInput_cfg (s : State) : (s.sampleInput).cfg = s.cfg := rfl
@[simp] theorem State.sampleInput_load (s : State) : (s.sampleInput).load = s.load := rfl
@[simp] theorem State.sampleInput_mio_blk (s : State) : (s.sampleInput).mio.blk = s.mio.blk := rfl
@[simp] theorem State.sampleInput_mio_snd (s : State) : (s.sampleInput).mio.snd = s.mio.snd := rfl
@[simp] theorem State.sampleInput_mio_irqvec (s : State) : (s.sampleInput).mio.irqvec = s.mio.irqvec := rfl
@[simp] theorem State.sampleInput_voices (s : State) : (s.sampleInput).voices = s.voices := rfl
@[simp] theorem State.sampleInput_video (s : State) : (s.sampleInput).video = s.video := rfl
@[simp] theorem State.sampleInput_tilt (s : State) : (s.sampleInput).tilt = tiltStep s.cfg.orch s.env.platform.pitch s.env.platform.roll s.tilt := rfl
@[simp] theorem State.sampleInput_coin (s : State) : (s.sampleInput).coin = coinStep s.cfg.orch (hbTrigger s.env.platform.hb) s.env.platform.nowMs s.coin := rfl
@[simp] theorem State.sampleInput_power (s : State) : (s.sampleInput).power = s.power := rfl
@[simp] theorem State.sampleInput_det (s : State) : (s.sampleInput).det = s.det := rfl
@[simp] theorem State.sampleInput_orch (s : State) : (s.sampleInput).orch = s.orch := rfl
@[simp] theorem State.sampleInput_env (s : State) : (s.sampleInput).env = s.env := rfl

/-! `State.raiseVblank` -/

@[simp] theorem State.raiseVblank_cfg (s : State) : (s.raiseVblank).cfg = s.cfg := by
  unfold State.raiseVblank; split <;> rfl
@[simp] theorem State.raiseVblank_load (s : State) : (s.raiseVblank).load = s.load := by
  unfold State.raiseVblank; split <;> rfl
@[simp] theorem State.raiseVblank_mio (s : State) : (s.raiseVblank).mio = s.mio := by
  unfold State.raiseVblank; split <;> rfl
@[simp] theorem State.raiseVblank_voices (s : State) : (s.raiseVblank).voices = s.voices := by
  unfold State.raiseVblank; split <;> rfl
@[simp] theorem State.raiseVblank_video (s : State) : (s.raiseVblank).video = s.video := by
  unfold State.raiseVblank; split <;> rfl
@[simp] theorem State.raiseVblank_tilt (s : State) : (s.raiseVblank).tilt = s.tilt := by
  unfold State.raiseVblank; split <;> rfl
@[simp] theorem State.raiseVblank_coin (s : State) : (s.raiseVblank).coin = s.coin := by
  unfold State.raiseVblank; split <;> rfl
@[simp] theorem State.raiseVblank_power (s : State) : (s.raiseVblank).power = s.power := by
  unfold State.raiseVblank; split <;> rfl
@[simp] theorem State.raiseVblank_det (s : State) : (s.raiseVblank).det = s.det := by
  unfold State.raiseVblank; split <;> rfl
@[simp] theorem State.raiseVblank_orch (s : State) : (s.raiseVblank).orch = s.orch := by
  unfold State.raiseVblank; split <;> rfl
@[simp] theorem State.raiseVblank_env_inputs (s : State) : (s.raiseVblank).env.inputs = s.env.inputs := by
  unfold State.raiseVblank; split <;> rfl
@[simp] theorem State.raiseVblank_env_platform (s : State) : (s.raiseVblank).env.platform = s.env.platform := by
  unfold State.raiseVblank; split <;> rfl
@[simp] theorem State.raiseVblank_env_agent (s : State) : (s.raiseVblank).env.agent = s.env.agent := by
  unfold State.raiseVblank; split <;> rfl
@[simp] theorem State.raiseVblank_env_status (s : State) : (s.raiseVblank).env.status = s.env.status := by
  unfold State.raiseVblank; split <;> rfl
@[simp] theorem State.raiseVblank_env_st (s : State) : (s.raiseVblank).env.st = s.env.st := by
  unfold State.raiseVblank; split <;> rfl
@[simp] theorem State.raiseVblank_env_reply (s : State) : (s.raiseVblank).env.reply = s.env.reply := by
  unfold State.raiseVblank; split <;> rfl
@[simp] theorem State.raiseVblank_env_mark (s : State) : (s.raiseVblank).env.mark = s.env.mark := by
  unfold State.raiseVblank; split <;> rfl
@[simp] theorem State.raiseVblank_env_draws (s : State) : (s.raiseVblank).env.draws = s.env.draws := by
  unfold State.raiseVblank; split <;> rfl

/-! `State.stepDetector` -/

@[simp] theorem State.stepDetector_cfg (s : State) : (s.stepDetector).cfg = s.cfg := by
  unfold State.stepDetector; dsimp only; split <;> rfl
@[simp] theorem State.stepDetector_load (s : State) : (s.stepDetector).load = s.load := by
  unfold State.stepDetector; dsimp only; split <;> rfl
@[simp] theorem State.stepDetector_mio (s : State) : (s.stepDetector).mio = s.mio := by
  unfold State.stepDetector; dsimp only; split <;> rfl
@[simp] theorem State.stepDetector_voices (s : State) : (s.stepDetector).voices = s.voices := by
  unfold State.stepDetector; dsimp only; split <;> rfl
@[simp] theorem State.stepDetector_video (s : State) : (s.stepDetector).video = s.video := by
  unfold State.stepDetector; dsimp only; split <;> rfl
@[simp] theorem State.stepDetector_tilt (s : State) : (s.stepDetector).tilt = s.tilt := by
  unfold State.stepDetector; dsimp only; split <;> rfl
@[simp] theorem State.stepDetector_coin (s : State) : (s.stepDetector).coin = s.coin := by
  unfold State.stepDetector; dsimp only; split <;> rfl
@[simp] theorem State.stepDetector_power (s : State) : (s.stepDetector).power = s.power := by
  unfold State.stepDetector; dsimp only; split <;> rfl
@[simp] theorem State.stepDetector_orch_phase (s : State) : (s.stepDetector).orch.phase = s.orch.phase := by
  unfold State.stepDetector; dsimp only; split <;> rfl
@[simp] theorem State.stepDetector_orch_bandJ (s : State) : (s.stepDetector).orch.bandJ = s.orch.bandJ := by
  unfold State.stepDetector; dsimp only; split <;> rfl
@[simp] theorem State.stepDetector_orch_tickT0 (s : State) : (s.stepDetector).orch.tickT0 = s.orch.tickT0 := by
  unfold State.stepDetector; dsimp only; split <;> rfl
@[simp] theorem State.stepDetector_orch_fault (s : State) : (s.stepDetector).orch.fault = s.orch.fault := by
  unfold State.stepDetector; dsimp only; split <;> rfl
@[simp] theorem State.stepDetector_orch_hostOp (s : State) : (s.stepDetector).orch.hostOp = s.orch.hostOp := by
  unfold State.stepDetector; dsimp only; split <;> rfl
@[simp] theorem State.stepDetector_env (s : State) : (s.stepDetector).env = s.env := by
  unfold State.stepDetector; dsimp only; split <;> rfl

/-! `State.enterCutscene` -/

@[simp] theorem State.enterCutscene_cfg (s : State) : (s.enterCutscene).cfg = s.cfg := rfl
@[simp] theorem State.enterCutscene_load (s : State) : (s.enterCutscene).load = s.load := rfl
@[simp] theorem State.enterCutscene_mio (s : State) : (s.enterCutscene).mio = s.mio := rfl
@[simp] theorem State.enterCutscene_voices (s : State) : (s.enterCutscene).voices = s.voices := rfl
@[simp] theorem State.enterCutscene_video (s : State) : (s.enterCutscene).video = s.video := rfl
@[simp] theorem State.enterCutscene_tilt (s : State) : (s.enterCutscene).tilt = s.tilt := rfl
@[simp] theorem State.enterCutscene_coin (s : State) : (s.enterCutscene).coin = s.coin := rfl
@[simp] theorem State.enterCutscene_power (s : State) : (s.enterCutscene).power = s.power := rfl
@[simp] theorem State.enterCutscene_det (s : State) : (s.enterCutscene).det = s.det := rfl
@[simp] theorem State.enterCutscene_orch_phase (s : State) : (s.enterCutscene).orch.phase = .cutscene := rfl
@[simp] theorem State.enterCutscene_orch_bandJ (s : State) : (s.enterCutscene).orch.bandJ = s.orch.bandJ := rfl
@[simp] theorem State.enterCutscene_orch_tickT0 (s : State) : (s.enterCutscene).orch.tickT0 = s.orch.tickT0 := rfl
@[simp] theorem State.enterCutscene_orch_fault (s : State) : (s.enterCutscene).orch.fault = s.orch.fault := rfl
@[simp] theorem State.enterCutscene_orch_hostOp (s : State) : (s.enterCutscene).orch.hostOp = s.orch.hostOp := rfl
@[simp] theorem State.enterCutscene_orch_cutDue (s : State) : (s.enterCutscene).orch.cutDue = s.orch.cutDue := rfl
@[simp] theorem State.enterCutscene_env_inputs (s : State) : (s.enterCutscene).env.inputs = s.env.inputs := rfl
@[simp] theorem State.enterCutscene_env_platform (s : State) : (s.enterCutscene).env.platform = s.env.platform := rfl
@[simp] theorem State.enterCutscene_env_agent (s : State) : (s.enterCutscene).env.agent = s.env.agent := rfl
@[simp] theorem State.enterCutscene_env_status (s : State) : (s.enterCutscene).env.status = s.env.status := rfl
@[simp] theorem State.enterCutscene_env_st (s : State) : (s.enterCutscene).env.st = s.env.st := rfl
@[simp] theorem State.enterCutscene_env_reply (s : State) : (s.enterCutscene).env.reply = s.env.reply := rfl
@[simp] theorem State.enterCutscene_env_trace (s : State) : (s.enterCutscene).env.trace = s.env.trace ++ [.cutPlay] := rfl
@[simp] theorem State.enterCutscene_env_mark (s : State) : (s.enterCutscene).env.mark = s.env.mark := rfl
@[simp] theorem State.enterCutscene_env_draws (s : State) : (s.enterCutscene).env.draws = s.env.draws := rfl

/-! `State.ampStep` -/

@[simp] theorem State.ampStep_cfg (s : State) (quiet : Bool) (mute : Bool) : (s.ampStep quiet mute).cfg = s.cfg := by
  unfold State.ampStep State.ampOn State.ampOff; dsimp only; repeat' split
  all_goals rfl
@[simp] theorem State.ampStep_load (s : State) (quiet : Bool) (mute : Bool) : (s.ampStep quiet mute).load = s.load := by
  unfold State.ampStep State.ampOn State.ampOff; dsimp only; repeat' split
  all_goals rfl
@[simp] theorem State.ampStep_mio (s : State) (quiet : Bool) (mute : Bool) : (s.ampStep quiet mute).mio = s.mio := by
  unfold State.ampStep State.ampOn State.ampOff; dsimp only; repeat' split
  all_goals rfl
@[simp] theorem State.ampStep_voices (s : State) (quiet : Bool) (mute : Bool) : (s.ampStep quiet mute).voices = s.voices := by
  unfold State.ampStep State.ampOn State.ampOff; dsimp only; repeat' split
  all_goals rfl
@[simp] theorem State.ampStep_video (s : State) (quiet : Bool) (mute : Bool) : (s.ampStep quiet mute).video = s.video := by
  unfold State.ampStep State.ampOn State.ampOff; dsimp only; repeat' split
  all_goals rfl
@[simp] theorem State.ampStep_tilt (s : State) (quiet : Bool) (mute : Bool) : (s.ampStep quiet mute).tilt = s.tilt := by
  unfold State.ampStep State.ampOn State.ampOff; dsimp only; repeat' split
  all_goals rfl
@[simp] theorem State.ampStep_coin (s : State) (quiet : Bool) (mute : Bool) : (s.ampStep quiet mute).coin = s.coin := by
  unfold State.ampStep State.ampOn State.ampOff; dsimp only; repeat' split
  all_goals rfl
@[simp] theorem State.ampStep_det (s : State) (quiet : Bool) (mute : Bool) : (s.ampStep quiet mute).det = s.det := by
  unfold State.ampStep State.ampOn State.ampOff; dsimp only; repeat' split
  all_goals rfl
@[simp] theorem State.ampStep_orch (s : State) (quiet : Bool) (mute : Bool) : (s.ampStep quiet mute).orch = s.orch := by
  unfold State.ampStep State.ampOn State.ampOff; dsimp only; repeat' split
  all_goals rfl
@[simp] theorem State.ampStep_env_inputs (s : State) (quiet : Bool) (mute : Bool) : (s.ampStep quiet mute).env.inputs = s.env.inputs := by
  unfold State.ampStep State.ampOn State.ampOff; dsimp only; repeat' split
  all_goals rfl
@[simp] theorem State.ampStep_env_platform (s : State) (quiet : Bool) (mute : Bool) : (s.ampStep quiet mute).env.platform = s.env.platform := by
  unfold State.ampStep State.ampOn State.ampOff; dsimp only; repeat' split
  all_goals rfl
@[simp] theorem State.ampStep_env_agent (s : State) (quiet : Bool) (mute : Bool) : (s.ampStep quiet mute).env.agent = s.env.agent := by
  unfold State.ampStep State.ampOn State.ampOff; dsimp only; repeat' split
  all_goals rfl
@[simp] theorem State.ampStep_env_status (s : State) (quiet : Bool) (mute : Bool) : (s.ampStep quiet mute).env.status = s.env.status := by
  unfold State.ampStep State.ampOn State.ampOff; dsimp only; repeat' split
  all_goals rfl
@[simp] theorem State.ampStep_env_st (s : State) (quiet : Bool) (mute : Bool) : (s.ampStep quiet mute).env.st = s.env.st := by
  unfold State.ampStep State.ampOn State.ampOff; dsimp only; repeat' split
  all_goals rfl
@[simp] theorem State.ampStep_env_reply (s : State) (quiet : Bool) (mute : Bool) : (s.ampStep quiet mute).env.reply = s.env.reply := by
  unfold State.ampStep State.ampOn State.ampOff; dsimp only; repeat' split
  all_goals rfl
@[simp] theorem State.ampStep_env_mark (s : State) (quiet : Bool) (mute : Bool) : (s.ampStep quiet mute).env.mark = s.env.mark := by
  unfold State.ampStep State.ampOn State.ampOff; dsimp only; repeat' split
  all_goals rfl
@[simp] theorem State.ampStep_env_draws (s : State) (quiet : Bool) (mute : Bool) : (s.ampStep quiet mute).env.draws = s.env.draws := by
  unfold State.ampStep State.ampOn State.ampOff; dsimp only; repeat' split
  all_goals rfl

/-! `State.perfStep` -/

@[simp] theorem State.perfStep_cfg (s : State) (playing : Bool) : (s.perfStep playing).cfg = s.cfg := by
  unfold State.perfStep; dsimp only; repeat' split
  all_goals rfl
@[simp] theorem State.perfStep_load (s : State) (playing : Bool) : (s.perfStep playing).load = s.load := by
  unfold State.perfStep; dsimp only; repeat' split
  all_goals rfl
@[simp] theorem State.perfStep_mio (s : State) (playing : Bool) : (s.perfStep playing).mio = s.mio := by
  unfold State.perfStep; dsimp only; repeat' split
  all_goals rfl
@[simp] theorem State.perfStep_voices (s : State) (playing : Bool) : (s.perfStep playing).voices = s.voices := by
  unfold State.perfStep; dsimp only; repeat' split
  all_goals rfl
@[simp] theorem State.perfStep_video (s : State) (playing : Bool) : (s.perfStep playing).video = s.video := by
  unfold State.perfStep; dsimp only; repeat' split
  all_goals rfl
@[simp] theorem State.perfStep_tilt (s : State) (playing : Bool) : (s.perfStep playing).tilt = s.tilt := by
  unfold State.perfStep; dsimp only; repeat' split
  all_goals rfl
@[simp] theorem State.perfStep_coin (s : State) (playing : Bool) : (s.perfStep playing).coin = s.coin := by
  unfold State.perfStep; dsimp only; repeat' split
  all_goals rfl
@[simp] theorem State.perfStep_det (s : State) (playing : Bool) : (s.perfStep playing).det = s.det := by
  unfold State.perfStep; dsimp only; repeat' split
  all_goals rfl
@[simp] theorem State.perfStep_orch (s : State) (playing : Bool) : (s.perfStep playing).orch = s.orch := by
  unfold State.perfStep; dsimp only; repeat' split
  all_goals rfl
@[simp] theorem State.perfStep_env_inputs (s : State) (playing : Bool) : (s.perfStep playing).env.inputs = s.env.inputs := by
  unfold State.perfStep; dsimp only; repeat' split
  all_goals rfl
@[simp] theorem State.perfStep_env_platform (s : State) (playing : Bool) : (s.perfStep playing).env.platform = s.env.platform := by
  unfold State.perfStep; dsimp only; repeat' split
  all_goals rfl
@[simp] theorem State.perfStep_env_agent (s : State) (playing : Bool) : (s.perfStep playing).env.agent = s.env.agent := by
  unfold State.perfStep; dsimp only; repeat' split
  all_goals rfl
@[simp] theorem State.perfStep_env_status (s : State) (playing : Bool) : (s.perfStep playing).env.status = s.env.status := by
  unfold State.perfStep; dsimp only; repeat' split
  all_goals rfl
@[simp] theorem State.perfStep_env_st (s : State) (playing : Bool) : (s.perfStep playing).env.st = s.env.st := by
  unfold State.perfStep; dsimp only; repeat' split
  all_goals rfl
@[simp] theorem State.perfStep_env_reply (s : State) (playing : Bool) : (s.perfStep playing).env.reply = s.env.reply := by
  unfold State.perfStep; dsimp only; repeat' split
  all_goals rfl
@[simp] theorem State.perfStep_env_mark (s : State) (playing : Bool) : (s.perfStep playing).env.mark = s.env.mark := by
  unfold State.perfStep; dsimp only; repeat' split
  all_goals rfl
@[simp] theorem State.perfStep_env_draws (s : State) (playing : Bool) : (s.perfStep playing).env.draws = s.env.draws := by
  unfold State.perfStep; dsimp only; repeat' split
  all_goals rfl

/-! `State.blStep` -/

@[simp] theorem State.blStep_cfg (s : State) (playing : Bool) : (s.blStep playing).cfg = s.cfg := by
  unfold State.blStep State.setBacklight; dsimp only; repeat' split
  all_goals rfl
@[simp] theorem State.blStep_load (s : State) (playing : Bool) : (s.blStep playing).load = s.load := by
  unfold State.blStep State.setBacklight; dsimp only; repeat' split
  all_goals rfl
@[simp] theorem State.blStep_mio (s : State) (playing : Bool) : (s.blStep playing).mio = s.mio := by
  unfold State.blStep State.setBacklight; dsimp only; repeat' split
  all_goals rfl
@[simp] theorem State.blStep_voices (s : State) (playing : Bool) : (s.blStep playing).voices = s.voices := by
  unfold State.blStep State.setBacklight; dsimp only; repeat' split
  all_goals rfl
@[simp] theorem State.blStep_video (s : State) (playing : Bool) : (s.blStep playing).video = s.video := by
  unfold State.blStep State.setBacklight; dsimp only; repeat' split
  all_goals rfl
@[simp] theorem State.blStep_tilt (s : State) (playing : Bool) : (s.blStep playing).tilt = s.tilt := by
  unfold State.blStep State.setBacklight; dsimp only; repeat' split
  all_goals rfl
@[simp] theorem State.blStep_coin (s : State) (playing : Bool) : (s.blStep playing).coin = s.coin := by
  unfold State.blStep State.setBacklight; dsimp only; repeat' split
  all_goals rfl
@[simp] theorem State.blStep_det (s : State) (playing : Bool) : (s.blStep playing).det = s.det := by
  unfold State.blStep State.setBacklight; dsimp only; repeat' split
  all_goals rfl
@[simp] theorem State.blStep_orch (s : State) (playing : Bool) : (s.blStep playing).orch = s.orch := by
  unfold State.blStep State.setBacklight; dsimp only; repeat' split
  all_goals rfl
@[simp] theorem State.blStep_env_inputs (s : State) (playing : Bool) : (s.blStep playing).env.inputs = s.env.inputs := by
  unfold State.blStep State.setBacklight; dsimp only; repeat' split
  all_goals rfl
@[simp] theorem State.blStep_env_platform (s : State) (playing : Bool) : (s.blStep playing).env.platform = s.env.platform := by
  unfold State.blStep State.setBacklight; dsimp only; repeat' split
  all_goals rfl
@[simp] theorem State.blStep_env_agent (s : State) (playing : Bool) : (s.blStep playing).env.agent = s.env.agent := by
  unfold State.blStep State.setBacklight; dsimp only; repeat' split
  all_goals rfl
@[simp] theorem State.blStep_env_status (s : State) (playing : Bool) : (s.blStep playing).env.status = s.env.status := by
  unfold State.blStep State.setBacklight; dsimp only; repeat' split
  all_goals rfl
@[simp] theorem State.blStep_env_st (s : State) (playing : Bool) : (s.blStep playing).env.st = s.env.st := by
  unfold State.blStep State.setBacklight; dsimp only; repeat' split
  all_goals rfl
@[simp] theorem State.blStep_env_reply (s : State) (playing : Bool) : (s.blStep playing).env.reply = s.env.reply := by
  unfold State.blStep State.setBacklight; dsimp only; repeat' split
  all_goals rfl
@[simp] theorem State.blStep_env_mark (s : State) (playing : Bool) : (s.blStep playing).env.mark = s.env.mark := by
  unfold State.blStep State.setBacklight; dsimp only; repeat' split
  all_goals rfl
@[simp] theorem State.blStep_env_draws (s : State) (playing : Bool) : (s.blStep playing).env.draws = s.env.draws := by
  unfold State.blStep State.setBacklight; dsimp only; repeat' split
  all_goals rfl

/-! `State.evalPower` -/

@[simp] theorem State.evalPower_cfg (s : State) : (s.evalPower).cfg = s.cfg := by simp [State.evalPower, State.setMutePrev]
@[simp] theorem State.evalPower_load (s : State) : (s.evalPower).load = s.load := by simp [State.evalPower, State.setMutePrev]
@[simp] theorem State.evalPower_mio (s : State) : (s.evalPower).mio = s.mio := by simp [State.evalPower, State.setMutePrev]
@[simp] theorem State.evalPower_voices (s : State) : (s.evalPower).voices = s.voices := by simp [State.evalPower, State.setMutePrev]
@[simp] theorem State.evalPower_video (s : State) : (s.evalPower).video = s.video := by simp [State.evalPower, State.setMutePrev]
@[simp] theorem State.evalPower_tilt (s : State) : (s.evalPower).tilt = s.tilt := by simp [State.evalPower, State.setMutePrev]
@[simp] theorem State.evalPower_coin (s : State) : (s.evalPower).coin = s.coin := by simp [State.evalPower, State.setMutePrev]
@[simp] theorem State.evalPower_det (s : State) : (s.evalPower).det = s.det := by simp [State.evalPower, State.setMutePrev]
@[simp] theorem State.evalPower_orch (s : State) : (s.evalPower).orch = s.orch := by simp [State.evalPower, State.setMutePrev]
@[simp] theorem State.evalPower_env_inputs (s : State) : (s.evalPower).env.inputs = s.env.inputs := by simp [State.evalPower, State.setMutePrev]
@[simp] theorem State.evalPower_env_platform (s : State) : (s.evalPower).env.platform = s.env.platform := by simp [State.evalPower, State.setMutePrev]
@[simp] theorem State.evalPower_env_agent (s : State) : (s.evalPower).env.agent = s.env.agent := by simp [State.evalPower, State.setMutePrev]
@[simp] theorem State.evalPower_env_status (s : State) : (s.evalPower).env.status = s.env.status := by simp [State.evalPower, State.setMutePrev]
@[simp] theorem State.evalPower_env_st (s : State) : (s.evalPower).env.st = s.env.st := by simp [State.evalPower, State.setMutePrev]
@[simp] theorem State.evalPower_env_reply (s : State) : (s.evalPower).env.reply = s.env.reply := by simp [State.evalPower, State.setMutePrev]
@[simp] theorem State.evalPower_env_mark (s : State) : (s.evalPower).env.mark = s.env.mark := by simp [State.evalPower, State.setMutePrev]
@[simp] theorem State.evalPower_env_draws (s : State) : (s.evalPower).env.draws = s.env.draws := by simp [State.evalPower, State.setMutePrev]

/-! `State.enterWait` -/

@[simp] theorem State.enterWait_cfg (s : State) (p : Phase) : (s.enterWait p).cfg = s.cfg := rfl
@[simp] theorem State.enterWait_load (s : State) (p : Phase) : (s.enterWait p).load = s.load := rfl
@[simp] theorem State.enterWait_mio (s : State) (p : Phase) : (s.enterWait p).mio = s.mio := rfl
@[simp] theorem State.enterWait_voices (s : State) (p : Phase) : (s.enterWait p).voices = s.voices := rfl
@[simp] theorem State.enterWait_video (s : State) (p : Phase) : (s.enterWait p).video = s.video := rfl
@[simp] theorem State.enterWait_tilt (s : State) (p : Phase) : (s.enterWait p).tilt = s.tilt := rfl
@[simp] theorem State.enterWait_coin (s : State) (p : Phase) : (s.enterWait p).coin = s.coin := rfl
@[simp] theorem State.enterWait_power (s : State) (p : Phase) : (s.enterWait p).power = s.power := rfl
@[simp] theorem State.enterWait_det (s : State) (p : Phase) : (s.enterWait p).det = s.det := rfl
@[simp] theorem State.enterWait_orch_phase (s : State) (p : Phase) : (s.enterWait p).orch.phase = p := rfl
@[simp] theorem State.enterWait_orch_bandJ (s : State) (p : Phase) : (s.enterWait p).orch.bandJ = s.orch.bandJ := rfl
@[simp] theorem State.enterWait_orch_tickT0 (s : State) (p : Phase) : (s.enterWait p).orch.tickT0 = s.orch.tickT0 := rfl
@[simp] theorem State.enterWait_orch_fault (s : State) (p : Phase) : (s.enterWait p).orch.fault = s.orch.fault := rfl
@[simp] theorem State.enterWait_orch_hostOp (s : State) (p : Phase) : (s.enterWait p).orch.hostOp = s.orch.hostOp := rfl
@[simp] theorem State.enterWait_orch_cutDue (s : State) (p : Phase) : (s.enterWait p).orch.cutDue = s.orch.cutDue := rfl
@[simp] theorem State.enterWait_env_inputs (s : State) (p : Phase) : (s.enterWait p).env.inputs = s.env.inputs := rfl
@[simp] theorem State.enterWait_env_platform (s : State) (p : Phase) : (s.enterWait p).env.platform = s.env.platform := rfl
@[simp] theorem State.enterWait_env_agent (s : State) (p : Phase) : (s.enterWait p).env.agent = s.env.agent := rfl
@[simp] theorem State.enterWait_env_status (s : State) (p : Phase) : (s.enterWait p).env.status = s.env.status := rfl
@[simp] theorem State.enterWait_env_st (s : State) (p : Phase) : (s.enterWait p).env.st = s.env.st := rfl
@[simp] theorem State.enterWait_env_reply (s : State) (p : Phase) : (s.enterWait p).env.reply = s.env.reply := rfl
@[simp] theorem State.enterWait_env_trace (s : State) (p : Phase) : (s.enterWait p).env.trace = s.env.trace ++ [.dispWait] := rfl
@[simp] theorem State.enterWait_env_mark (s : State) (p : Phase) : (s.enterWait p).env.mark = s.env.mark := rfl
@[simp] theorem State.enterWait_env_draws (s : State) (p : Phase) : (s.enterWait p).env.draws = s.env.draws := rfl

/-! `State.waitReturned` -/

@[simp] theorem State.waitReturned_cfg (s : State) (j : Nat) : (s.waitReturned j).cfg = s.cfg := by simp [State.waitReturned]
@[simp] theorem State.waitReturned_load (s : State) (j : Nat) : (s.waitReturned j).load = s.load := by simp [State.waitReturned]
@[simp] theorem State.waitReturned_mio (s : State) (j : Nat) : (s.waitReturned j).mio = s.mio := by simp [State.waitReturned]
@[simp] theorem State.waitReturned_voices (s : State) (j : Nat) : (s.waitReturned j).voices = s.voices := by simp [State.waitReturned]
@[simp] theorem State.waitReturned_video_tat (s : State) (j : Nat) : (s.waitReturned j).video.tat = s.video.tat := by simp [State.waitReturned]
@[simp] theorem State.waitReturned_video_palx (s : State) (j : Nat) : (s.waitReturned j).video.palx = s.video.palx := by simp [State.waitReturned]
@[simp] theorem State.waitReturned_video_asl (s : State) (j : Nat) : (s.waitReturned j).video.asl = s.video.asl := by simp [State.waitReturned]
@[simp] theorem State.waitReturned_video_dispBusy (s : State) (j : Nat) : (s.waitReturned j).video.dispBusy = false := by simp [State.waitReturned]
@[simp] theorem State.waitReturned_tilt (s : State) (j : Nat) : (s.waitReturned j).tilt = s.tilt := by simp [State.waitReturned]
@[simp] theorem State.waitReturned_coin (s : State) (j : Nat) : (s.waitReturned j).coin = s.coin := by simp [State.waitReturned]
@[simp] theorem State.waitReturned_power (s : State) (j : Nat) : (s.waitReturned j).power = s.power := by simp [State.waitReturned]
@[simp] theorem State.waitReturned_det (s : State) (j : Nat) : (s.waitReturned j).det = s.det := by simp [State.waitReturned]
@[simp] theorem State.waitReturned_orch (s : State) (j : Nat) : (s.waitReturned j).orch = s.orch := by simp [State.waitReturned]
@[simp] theorem State.waitReturned_env_inputs (s : State) (j : Nat) : (s.waitReturned j).env.inputs = s.env.inputs := by simp [State.waitReturned]
@[simp] theorem State.waitReturned_env_platform (s : State) (j : Nat) : (s.waitReturned j).env.platform = s.env.platform := by simp [State.waitReturned]
@[simp] theorem State.waitReturned_env_agent (s : State) (j : Nat) : (s.waitReturned j).env.agent = s.env.agent := by simp [State.waitReturned]
@[simp] theorem State.waitReturned_env_status (s : State) (j : Nat) : (s.waitReturned j).env.status = s.env.status := by simp [State.waitReturned]
@[simp] theorem State.waitReturned_env_st (s : State) (j : Nat) : (s.waitReturned j).env.st = s.env.st := by simp [State.waitReturned]
@[simp] theorem State.waitReturned_env_reply (s : State) (j : Nat) : (s.waitReturned j).env.reply = s.env.reply := by simp [State.waitReturned]
@[simp] theorem State.waitReturned_env_trace (s : State) (j : Nat) : (s.waitReturned j).env.trace = s.env.trace := by simp [State.waitReturned]
@[simp] theorem State.waitReturned_env_mark (s : State) (j : Nat) : (s.waitReturned j).env.mark = s.env.mark := by simp [State.waitReturned]
@[simp] theorem State.waitReturned_env_draws (s : State) (j : Nat) : (s.waitReturned j).env.draws = s.env.draws + 1 := by simp [State.waitReturned]

/-! `State.sendBand` -/

@[simp] theorem State.sendBand_cfg (s : State) (j : Nat) : (s.sendBand j).cfg = s.cfg := by simp [State.sendBand]
@[simp] theorem State.sendBand_load (s : State) (j : Nat) : (s.sendBand j).load = s.load := by simp [State.sendBand]
@[simp] theorem State.sendBand_mio (s : State) (j : Nat) : (s.sendBand j).mio = s.mio := by simp [State.sendBand]
@[simp] theorem State.sendBand_voices (s : State) (j : Nat) : (s.sendBand j).voices = s.voices := by simp [State.sendBand]
@[simp] theorem State.sendBand_video_tat (s : State) (j : Nat) : (s.sendBand j).video.tat = s.video.tat := by simp [State.sendBand]
@[simp] theorem State.sendBand_video_palx (s : State) (j : Nat) : (s.sendBand j).video.palx = s.video.palx := by simp [State.sendBand]
@[simp] theorem State.sendBand_video_asl (s : State) (j : Nat) : (s.sendBand j).video.asl = s.video.asl := by simp [State.sendBand]
@[simp] theorem State.sendBand_video_buf0 (s : State) (j : Nat) : (s.sendBand j).video.buf0 = s.video.buf0 := by simp [State.sendBand]
@[simp] theorem State.sendBand_video_buf1 (s : State) (j : Nat) : (s.sendBand j).video.buf1 = s.video.buf1 := by simp [State.sendBand]
@[simp] theorem State.sendBand_video_dispBusy (s : State) (j : Nat) : (s.sendBand j).video.dispBusy = true := by simp [State.sendBand]
@[simp] theorem State.sendBand_tilt (s : State) (j : Nat) : (s.sendBand j).tilt = s.tilt := by simp [State.sendBand]
@[simp] theorem State.sendBand_coin (s : State) (j : Nat) : (s.sendBand j).coin = s.coin := by simp [State.sendBand]
@[simp] theorem State.sendBand_power (s : State) (j : Nat) : (s.sendBand j).power = s.power := by simp [State.sendBand]
@[simp] theorem State.sendBand_det (s : State) (j : Nat) : (s.sendBand j).det = s.det := by simp [State.sendBand]
@[simp] theorem State.sendBand_orch_phase (s : State) (j : Nat) : (s.sendBand j).orch.phase = .bandSend := by simp [State.sendBand]
@[simp] theorem State.sendBand_orch_bandJ (s : State) (j : Nat) : (s.sendBand j).orch.bandJ = s.orch.bandJ := by simp [State.sendBand]
@[simp] theorem State.sendBand_orch_tickT0 (s : State) (j : Nat) : (s.sendBand j).orch.tickT0 = s.orch.tickT0 := by simp [State.sendBand]
@[simp] theorem State.sendBand_orch_fault (s : State) (j : Nat) : (s.sendBand j).orch.fault = s.orch.fault := by simp [State.sendBand]
@[simp] theorem State.sendBand_orch_hostOp (s : State) (j : Nat) : (s.sendBand j).orch.hostOp = s.orch.hostOp := by simp [State.sendBand]
@[simp] theorem State.sendBand_orch_cutDue (s : State) (j : Nat) : (s.sendBand j).orch.cutDue = s.orch.cutDue := by simp [State.sendBand]
@[simp] theorem State.sendBand_env_inputs (s : State) (j : Nat) : (s.sendBand j).env.inputs = s.env.inputs := by simp [State.sendBand]
@[simp] theorem State.sendBand_env_platform (s : State) (j : Nat) : (s.sendBand j).env.platform = s.env.platform := by simp [State.sendBand]
@[simp] theorem State.sendBand_env_agent (s : State) (j : Nat) : (s.sendBand j).env.agent = s.env.agent := by simp [State.sendBand]
@[simp] theorem State.sendBand_env_status (s : State) (j : Nat) : (s.sendBand j).env.status = s.env.status := by simp [State.sendBand]
@[simp] theorem State.sendBand_env_st (s : State) (j : Nat) : (s.sendBand j).env.st = s.env.st := by simp [State.sendBand]
@[simp] theorem State.sendBand_env_reply (s : State) (j : Nat) : (s.sendBand j).env.reply = s.env.reply := by simp [State.sendBand]
@[simp] theorem State.sendBand_env_trace (s : State) (j : Nat) : (s.sendBand j).env.trace = s.env.trace ++ [.dispSetWindow s.cfg.geo.hOffset (s.cfg.geo.bandLines * j) s.cfg.width s.cfg.geo.bandLines, .dispWrite (s.cfg.spr.palXform == .swap16) (s.band (j % 2)).flatten (s.cfg.geo.bandLines * s.cfg.width)] := by simp [State.sendBand]
@[simp] theorem State.sendBand_env_mark (s : State) (j : Nat) : (s.sendBand j).env.mark = s.env.mark := by simp [State.sendBand]
@[simp] theorem State.sendBand_env_draws (s : State) (j : Nat) : (s.sendBand j).env.draws = s.env.draws := by simp [State.sendBand]

/-! `State.beginBand` -/

@[simp] theorem State.beginBand_cfg (s : State) (j : Nat) : (s.beginBand j).cfg = s.cfg := by simp [State.beginBand]
@[simp] theorem State.beginBand_load (s : State) (j : Nat) : (s.beginBand j).load = s.load := by simp [State.beginBand]
@[simp] theorem State.beginBand_mio (s : State) (j : Nat) : (s.beginBand j).mio = s.mio := by simp [State.beginBand]
@[simp] theorem State.beginBand_voices (s : State) (j : Nat) : (s.beginBand j).voices = s.voices := by simp [State.beginBand]
@[simp] theorem State.beginBand_video_tat (s : State) (j : Nat) : (s.beginBand j).video.tat = s.video.tat := by simp [State.beginBand]
@[simp] theorem State.beginBand_video_palx (s : State) (j : Nat) : (s.beginBand j).video.palx = s.video.palx := by simp [State.beginBand]
@[simp] theorem State.beginBand_video_asl (s : State) (j : Nat) : (s.beginBand j).video.asl = s.video.asl := by simp [State.beginBand]
@[simp] theorem State.beginBand_video_dispBusy (s : State) (j : Nat) : (s.beginBand j).video.dispBusy = s.video.dispBusy := by simp [State.beginBand]
@[simp] theorem State.beginBand_tilt (s : State) (j : Nat) : (s.beginBand j).tilt = s.tilt := by simp [State.beginBand]
@[simp] theorem State.beginBand_coin (s : State) (j : Nat) : (s.beginBand j).coin = s.coin := by simp [State.beginBand]
@[simp] theorem State.beginBand_power (s : State) (j : Nat) : (s.beginBand j).power = s.power := by simp [State.beginBand]
@[simp] theorem State.beginBand_det (s : State) (j : Nat) : (s.beginBand j).det = s.det := by simp [State.beginBand]
@[simp] theorem State.beginBand_orch_phase (s : State) (j : Nat) : (s.beginBand j).orch.phase = .bandRender := by simp [State.beginBand]
@[simp] theorem State.beginBand_orch_bandJ (s : State) (j : Nat) : (s.beginBand j).orch.bandJ = j := by simp [State.beginBand]
@[simp] theorem State.beginBand_orch_tickT0 (s : State) (j : Nat) : (s.beginBand j).orch.tickT0 = s.orch.tickT0 := by simp [State.beginBand]
@[simp] theorem State.beginBand_orch_fault (s : State) (j : Nat) : (s.beginBand j).orch.fault = s.orch.fault := by simp [State.beginBand]
@[simp] theorem State.beginBand_orch_hostOp (s : State) (j : Nat) : (s.beginBand j).orch.hostOp = s.orch.hostOp := by simp [State.beginBand]
@[simp] theorem State.beginBand_orch_cutDue (s : State) (j : Nat) : (s.beginBand j).orch.cutDue = s.orch.cutDue := by simp [State.beginBand]
@[simp] theorem State.beginBand_env (s : State) (j : Nat) : (s.beginBand j).env = s.env := by simp [State.beginBand]

/-! `State.frameDone` -/

@[simp] theorem State.frameDone_cfg (s : State) : (s.frameDone).cfg = s.cfg := by simp [State.frameDone]
@[simp] theorem State.frameDone_load (s : State) : (s.frameDone).load = s.load := by simp [State.frameDone]
@[simp] theorem State.frameDone_mio (s : State) : (s.frameDone).mio = s.mio := by simp [State.frameDone]
@[simp] theorem State.frameDone_voices (s : State) : (s.frameDone).voices = s.voices := by simp [State.frameDone]
@[simp] theorem State.frameDone_video_tat (s : State) : (s.frameDone).video.tat = s.video.tat := by simp [State.frameDone]
@[simp] theorem State.frameDone_video_palx (s : State) : (s.frameDone).video.palx = s.video.palx := by simp [State.frameDone]
@[simp] theorem State.frameDone_video_asl (s : State) : (s.frameDone).video.asl = s.video.asl := by simp [State.frameDone]
@[simp] theorem State.frameDone_video_dispBusy (s : State) : (s.frameDone).video.dispBusy = false := by simp [State.frameDone]
@[simp] theorem State.frameDone_tilt (s : State) : (s.frameDone).tilt = s.tilt := by simp [State.frameDone]
@[simp] theorem State.frameDone_coin (s : State) : (s.frameDone).coin = s.coin := by simp [State.frameDone]
@[simp] theorem State.frameDone_power (s : State) : (s.frameDone).power = s.power := by simp [State.frameDone]
@[simp] theorem State.frameDone_det (s : State) : (s.frameDone).det = s.det := by simp [State.frameDone]
@[simp] theorem State.frameDone_orch_phase (s : State) : (s.frameDone).orch.phase = s.orch.phase := by simp [State.frameDone]
@[simp] theorem State.frameDone_orch_bandJ (s : State) : (s.frameDone).orch.bandJ = s.cfg.geo.bandCount := by simp [State.frameDone]
@[simp] theorem State.frameDone_orch_tickT0 (s : State) : (s.frameDone).orch.tickT0 = s.orch.tickT0 := by simp [State.frameDone]
@[simp] theorem State.frameDone_orch_fault (s : State) : (s.frameDone).orch.fault = s.orch.fault := by simp [State.frameDone]
@[simp] theorem State.frameDone_orch_hostOp (s : State) : (s.frameDone).orch.hostOp = s.orch.hostOp := by simp [State.frameDone]
@[simp] theorem State.frameDone_orch_cutDue (s : State) : (s.frameDone).orch.cutDue = s.orch.cutDue := by simp [State.frameDone]
@[simp] theorem State.frameDone_env_inputs (s : State) : (s.frameDone).env.inputs = s.env.inputs := by simp [State.frameDone]
@[simp] theorem State.frameDone_env_platform (s : State) : (s.frameDone).env.platform = s.env.platform := by simp [State.frameDone]
@[simp] theorem State.frameDone_env_agent (s : State) : (s.frameDone).env.agent = s.env.agent := by simp [State.frameDone]
@[simp] theorem State.frameDone_env_status (s : State) : (s.frameDone).env.status = s.env.status := by simp [State.frameDone]
@[simp] theorem State.frameDone_env_st (s : State) : (s.frameDone).env.st = s.env.st := by simp [State.frameDone]
@[simp] theorem State.frameDone_env_reply (s : State) : (s.frameDone).env.reply = s.env.reply := by simp [State.frameDone]
@[simp] theorem State.frameDone_env_trace (s : State) : (s.frameDone).env.trace = s.env.trace := by simp [State.frameDone]
@[simp] theorem State.frameDone_env_mark (s : State) : (s.frameDone).env.mark = s.env.mark := by simp [State.frameDone]
@[simp] theorem State.frameDone_env_draws (s : State) : (s.frameDone).env.draws = s.env.draws + 1 := by simp [State.frameDone]

/-! `State.enterPace` -/

@[simp] theorem State.enterPace_cfg (s : State) : (s.enterPace).cfg = s.cfg := by
  unfold State.enterPace; split <;> rfl
@[simp] theorem State.enterPace_load (s : State) : (s.enterPace).load = s.load := by
  unfold State.enterPace; split <;> rfl
@[simp] theorem State.enterPace_mio (s : State) : (s.enterPace).mio = s.mio := by
  unfold State.enterPace; split <;> rfl
@[simp] theorem State.enterPace_voices (s : State) : (s.enterPace).voices = s.voices := by
  unfold State.enterPace; split <;> rfl
@[simp] theorem State.enterPace_video (s : State) : (s.enterPace).video = s.video := by
  unfold State.enterPace; split <;> rfl
@[simp] theorem State.enterPace_tilt (s : State) : (s.enterPace).tilt = s.tilt := by
  unfold State.enterPace; split <;> rfl
@[simp] theorem State.enterPace_coin (s : State) : (s.enterPace).coin = s.coin := by
  unfold State.enterPace; split <;> rfl
@[simp] theorem State.enterPace_power (s : State) : (s.enterPace).power = s.power := by
  unfold State.enterPace; split <;> rfl
@[simp] theorem State.enterPace_det (s : State) : (s.enterPace).det = s.det := by
  unfold State.enterPace; split <;> rfl
@[simp] theorem State.enterPace_orch_phase (s : State) : (s.enterPace).orch.phase = .pace := by
  unfold State.enterPace; split <;> rfl
@[simp] theorem State.enterPace_orch_bandJ (s : State) : (s.enterPace).orch.bandJ = s.orch.bandJ := by
  unfold State.enterPace; split <;> rfl
@[simp] theorem State.enterPace_orch_tickT0 (s : State) : (s.enterPace).orch.tickT0 = s.orch.tickT0 := by
  unfold State.enterPace; split <;> rfl
@[simp] theorem State.enterPace_orch_fault (s : State) : (s.enterPace).orch.fault = s.orch.fault := by
  unfold State.enterPace; split <;> rfl
@[simp] theorem State.enterPace_orch_hostOp (s : State) : (s.enterPace).orch.hostOp = s.orch.hostOp := by
  unfold State.enterPace; split <;> rfl
@[simp] theorem State.enterPace_orch_cutDue (s : State) : (s.enterPace).orch.cutDue = s.orch.cutDue := by
  unfold State.enterPace; split <;> rfl
@[simp] theorem State.enterPace_env_inputs (s : State) : (s.enterPace).env.inputs = s.env.inputs := by
  unfold State.enterPace; split <;> rfl
@[simp] theorem State.enterPace_env_platform (s : State) : (s.enterPace).env.platform = s.env.platform := by
  unfold State.enterPace; split <;> rfl
@[simp] theorem State.enterPace_env_agent (s : State) : (s.enterPace).env.agent = s.env.agent := by
  unfold State.enterPace; split <;> rfl
@[simp] theorem State.enterPace_env_status (s : State) : (s.enterPace).env.status = s.env.status := by
  unfold State.enterPace; split <;> rfl
@[simp] theorem State.enterPace_env_st (s : State) : (s.enterPace).env.st = s.env.st := by
  unfold State.enterPace; split <;> rfl
@[simp] theorem State.enterPace_env_reply (s : State) : (s.enterPace).env.reply = s.env.reply := by
  unfold State.enterPace; split <;> rfl
@[simp] theorem State.enterPace_env_mark (s : State) : (s.enterPace).env.mark = s.env.mark := by
  unfold State.enterPace; split <;> rfl
@[simp] theorem State.enterPace_env_draws (s : State) : (s.enterPace).env.draws = s.env.draws := by
  unfold State.enterPace; split <;> rfl

/-! Reading back through the accessors -/

@[simp] theorem State.band_setBand_same (s : State) (k : Nat) (b : Band) : (s.setBand k b).band k = b := by
  unfold State.setBand State.band; split <;> simp_all

@[simp] theorem State.band_setOwner (s : State) (k j : Nat) (o : Owner) : (s.setOwner k o).band j = s.band j := by
  simp [State.band]

@[simp] theorem State.owner_setBand (s : State) (k j : Nat) (b : Band) : (s.setBand k b).owner j = s.owner j := by
  simp [State.owner]

@[simp] theorem State.owner_setOwner_same (s : State) (k : Nat) (o : Owner) : (s.setOwner k o).owner k = o := by
  unfold State.setOwner State.owner; split <;> simp_all

theorem State.band_setBand_other (s : State) (k j : Nat) (b : Band) (h : ¬(k = 0 ↔ j = 0)) :
    (s.setBand k b).band j = s.band j := by
  unfold State.setBand State.band; split <;> simp_all

theorem State.owner_setOwner_other (s : State) (k j : Nat) (o : Owner) (h : ¬(k = 0 ↔ j = 0)) :
    (s.setOwner k o).owner j = s.owner j := by
  unfold State.setOwner State.owner; split <;> simp_all

@[simp] theorem State.owner_drew (s : State) (j : Nat) : s.drew.owner j = s.owner j := rfl

@[simp] theorem State.band_drew (s : State) (j : Nat) : s.drew.band j = s.band j := rfl

/-- Two band buffers, two owners: the state is what its groups are. -/
theorem State.setBand_setBand (s : State) (k : Nat) (a b : Band) : (s.setBand k a).setBand k b = s.setBand k b := by
  unfold State.setBand; split <;> rfl

end Sys2Proof.Machine
end

