-- ==== Sys2Proof/Laws/Memory.lean ====
section
/-! SUPPORT. The laws of sparse cells and of `blk`: read after write, and that every operation keeps the canonical form. -/

namespace Sys2Proof.Machine

variable {w : Nat}

theorem Cells.wf_tail {x : Nat × BitVec w} {m : Cells w} (h : Cells.wf (x :: m)) : Cells.wf m :=
  ⟨(List.pairwise_cons.1 h.1).2, fun y hy => h.2 y (List.mem_cons_of_mem _ hy)⟩

theorem Cells.wf_head_lt {x : Nat × BitVec w} {m : Cells w} (h : Cells.wf (x :: m)) : ∀ y ∈ m, x.1 < y.1 :=
  (List.pairwise_cons.1 h.1).1

/-- A place below every listed one holds 0. -/
theorem Cells.get_eq_zero_of_lt (m : Cells w) (a : Nat) (h : ∀ y ∈ m, a < y.1) : m.get a = 0#w := by
  induction m with
  | nil => rfl
  | cons x rest ih =>
    have hx : ¬x.1 = a := by have := h x (by simp); omega
    simp only [Cells.get, hx, if_false]
    exact ih fun y hy => h y (List.mem_cons_of_mem _ hy)

theorem Cells.get_set_same (m : Cells w) (hm : m.wf) (a : Nat) (v : BitVec w) : (m.set a v).get a = v := by
  induction m with
  | nil => by_cases hv : v = 0#w <;> simp [Cells.set, Cells.get, hv]
  | cons x rest ih =>
    have htail := Cells.wf_head_lt hm
    by_cases hlt : a < x.1
    · by_cases hv : v = 0#w
      · simp only [Cells.set, hlt, hv, if_true]
        exact Cells.get_eq_zero_of_lt _ _ fun y hy => by
          rcases List.mem_cons.1 hy with rfl | hy
          · exact hlt
          · exact Nat.lt_trans hlt (htail y hy)
      · simp [Cells.set, Cells.get, hlt, hv]
    · by_cases heq : x.1 = a
      · by_cases hv : v = 0#w
        · simp only [Cells.set, heq, hv, Nat.lt_irrefl, if_true, if_false]
          exact Cells.get_eq_zero_of_lt _ _ fun y hy => heq ▸ htail y hy
        · simp [Cells.set, Cells.get, heq, hv]
      · simp only [Cells.set, Cells.get, hlt, heq, if_false]
        exact ih (Cells.wf_tail hm)

theorem Cells.get_set_other (m : Cells w) (a b : Nat) (v : BitVec w) (hab : b ≠ a) : (m.set a v).get b = m.get b := by
  induction m with
  | nil => by_cases hv : v = 0#w <;> simp [Cells.set, Cells.get, hv, hab.symm]
  | cons x rest ih =>
    have hx : ∀ y : Nat × BitVec w, y.1 = a → ¬y.1 = b := fun y h1 h2 => hab (h2.symm.trans h1)
    by_cases hlt : a < x.1
    · by_cases hv : v = 0#w <;> simp [Cells.set, Cells.get, hlt, hv, hab.symm]
    · by_cases heq : x.1 = a
      · by_cases hv : v = 0#w <;> simp [Cells.set, Cells.get, heq, hv, hab.symm]
      · simp only [Cells.set, Cells.get, hlt, heq, if_false, ih]

/-- A listed place of the new contents is the place written or one listed before. -/
theorem Cells.mem_set (m : Cells w) (a : Nat) (v : BitVec w) : ∀ y ∈ m.set a v, (y = (a, v) ∧ v ≠ 0#w) ∨ y ∈ m := by
  induction m with
  | nil => by_cases hv : v = 0#w <;> simp [Cells.set, hv]
  | cons x rest ih =>
    intro y hy
    by_cases hlt : a < x.1
    · by_cases hv : v = 0#w <;> simp_all [Cells.set]
    · by_cases heq : x.1 = a
      · by_cases hv : v = 0#w
        · simp_all [Cells.set]
        · simp only [Cells.set, heq, hv, Nat.lt_irrefl, if_true, if_false, List.mem_cons] at hy
          exact hy.imp (fun h => ⟨h, hv⟩) (List.mem_cons_of_mem _)
      · simp only [Cells.set, hlt, heq, if_false, List.mem_cons] at hy
        rcases hy with rfl | hy
        · simp
        · rcases ih y hy with h | h
          · exact .inl h
          · exact .inr (List.mem_cons_of_mem _ h)

/-- Writing keeps the canonical form. -/
theorem Cells.set_wf (m : Cells w) (hm : m.wf) (a : Nat) (v : BitVec w) : (m.set a v).wf := by
  refine ⟨?_, fun y hy => ?_⟩
  · induction m with
    | nil => by_cases hv : v = 0#w <;> simp [Cells.set, hv]
    | cons x rest ih =>
      have htail := Cells.wf_head_lt hm
      have hrest := Cells.wf_tail hm
      by_cases hlt : a < x.1
      · by_cases hv : v = 0#w
        · simpa only [Cells.set, hlt, hv, if_true] using hm.1
        · simp only [Cells.set, hlt, hv, if_true, if_false, List.pairwise_cons]
          refine ⟨fun y hy => ?_, htail, hrest.1⟩
          rcases List.mem_cons.1 hy with rfl | hy
          · exact hlt
          · exact Nat.lt_trans hlt (htail y hy)
      · by_cases heq : x.1 = a
        · by_cases hv : v = 0#w
          · simpa only [Cells.set, heq, hv, Nat.lt_irrefl, if_true, if_false] using hrest.1
          · simp only [Cells.set, heq, hv, Nat.lt_irrefl, if_false, if_true, List.pairwise_cons]
            exact ⟨fun y hy => heq ▸ htail y hy, hrest.1⟩
        · simp only [Cells.set, hlt, heq, if_false, List.pairwise_cons]
          refine ⟨fun y hy => ?_, ih hrest⟩
          rcases Cells.mem_set rest a v y hy with ⟨rfl, -⟩ | hy
          · show x.1 < a; omega
          · exact htail y hy
  · rcases Cells.mem_set m a v y hy with ⟨rfl, hv⟩ | hy
    · exact hv
    · exact hm.2 y hy

/-! The block's bytes -/

theorem State.byteAt_setByte_same (s : State) (h : MemoryOk s) (off : Nat) (v : Byte) :
    (s.setByte off v).byteAt off = v := Cells.get_set_same _ h off v

theorem State.byteAt_setByte_other (s : State) (off o : Nat) (v : Byte) (h : o ≠ off) :
    (s.setByte off v).byteAt o = s.byteAt o := Cells.get_set_other _ off o v h

theorem State.setByte_memoryOk (s : State) (h : MemoryOk s) (off : Nat) (v : Byte) : MemoryOk (s.setByte off v) :=
  Cells.set_wf _ h off v

/-- A sound register after a write to an existing one. -/
theorem State.sndAt_setSnd (s : State) (i j : Nat) (v : Byte) (h : i < s.mio.snd.length) :
    (s.setSnd i v).sndAt j = if j = i then v else s.sndAt j := by
  simp only [State.sndAt, State.setSnd_mio_snd, List.getD_eq_getElem?_getD, List.getElem?_set]
  split_ifs <;> first | rfl | omega

/-- A byte is read from `blk` alone. -/
theorem State.byteAt_congr {s t : State} (h : t.mio.blk = s.mio.blk) (off : Nat) : t.byteAt off = s.byteAt off := by
  simp [State.byteAt, h]

theorem MemoryOk.congr {s t : State} (hs : MemoryOk s) (h : t.mio.blk = s.mio.blk) : MemoryOk t := by
  simpa [MemoryOk, h] using hs

theorem State.creditReset_memoryOk (s : State) (h : MemoryOk s) : MemoryOk s.creditReset :=
  (s.setByte _ _).setByte_memoryOk (s.setByte_memoryOk h _ _) _ _

/-- A drawn block is in canonical form. -/
theorem drawnBlock_wf (size n : Nat) : Memory.wf (drawnBlock size n) := by
  refine ⟨List.Pairwise.filter _ ?_, fun x hx => by simpa [drawnBlock] using (List.mem_filter.1 hx).2⟩
  exact List.Pairwise.map _ (fun a b h => h) List.pairwise_lt_range

/-- What a reset leaves in `blk` is in canonical form. -/
theorem resetMio_wf (c : Params) (n : Nat) : Memory.wf (resetMio c n).blk := by
  unfold resetMio
  split
  · exact ⟨List.Pairwise.nil, by simp [Mio.reset]⟩
  · exact drawnBlock_wf _ _

theorem reset_memoryOk : MemoryOk State.reset := ⟨List.Pairwise.nil, by simp [State.reset, Mio.reset]⟩

end Sys2Proof.Machine
end

