-- ==== Sys2Proof/Laws/Ops.lean ====
section
/-! SUPPORT. What a transaction can do, said once: it is refused with the first condition that applies, or it has its effect
(60_exceptions.md R346, R348); and when it is admitted (R360). -/

namespace Sys2Proof.Machine

variable {c : CmdClass} {more : List (Bool × RefusalCode)} {effect : State → State} {s t : State}

theorem refusal_of_fault (hf : s.orch.fault ≠ none) (hc : c ≠ .reset) : refusal c more s = some .faulted := by
  have : s.orch.fault.isSome = true := Option.isSome_iff_ne_none.2 hf
  simp [refusal, this, hc]

theorem refusal_of_closed (hf : s.orch.fault = none) (ha : allowed c s.env.agent s = false) :
    refusal c more s = some .badPhase := by simp [refusal, hf, ha]

theorem refusal_of_open (hf : s.orch.fault = none) (ha : allowed c s.env.agent s = true) :
    refusal c more s = (more.find? (·.1)).map (·.2) := by simp [refusal, hf, ha]

/-- Every transaction gives a next state (R340). -/
theorem transact_next (c : CmdClass) (more : List (Bool × RefusalCode)) (effect : State → State) (s : State) :
    ∃ t, transact c more effect s = .next t := by
  unfold transact; split <;> exact ⟨_, rfl⟩

/-- The inversion of a transaction. -/
theorem transact_cases (h : transact c more effect s = .next t) :
    (∃ code, refusal c more s = some code ∧ t = s.refuse code) ∨ (refusal c more s = none ∧ t = effect s) := by
  unfold transact at h
  split at h <;> cases h
  · exact .inl ⟨_, ‹_›, rfl⟩
  · exact .inr ⟨‹_›, rfl⟩

theorem transact_refused {code : RefusalCode} (h : refusal c more s = some code) :
    transact c more effect s = .next (s.refuse code) := by simp [transact, h]

theorem transact_effect (h : refusal c more s = none) : transact c more effect s = .next (effect s) := by
  simp [transact, h]

/-- A transaction whose own conditions all hold is refused only for the fault, the agent or the phase. -/
theorem refusal_none_of_open (hf : s.orch.fault = none) (ha : allowed c s.env.agent s = true)
    (hm : ∀ x ∈ more, x.1 = false) : refusal c more s = none := by
  rw [refusal_of_open hf ha]
  have : more.find? (·.1) = none := List.find?_eq_none.2 fun x hx => by simp [hm x hx]
  simp [this]

theorem CpuReady.open (h : CpuReady s) : allowed .bus s.env.agent s = true := by
  obtain ⟨-, ha, hp⟩ := h; simp [allowed, ha, hp]

theorem early_iff (s : State) :
    s.early = true ↔ s.env.platform.nowUs.toNat < s.orch.tickT0.toNat + s.cfg.orch.tickPeriodUs :=
  decide_eq_true_iff

/-- When ORCH is at a phase boundary (20_memory.md R82). -/
theorem atBoundary_iff (s : State) : s.atBoundary = true ↔
    s.orch.phase ≠ .reset ∧ s.orch.phase ≠ .initFailed ∧ s.orch.phase ≠ .cpuExec ∧
      (s.orch.phase = .cutscene → s.orch.cutDue = false) ∧
      (s.orch.phase = .bandWait ∨ s.orch.phase = .frameWait → s.env.platform.dispDone = true) ∧
      (s.orch.phase = .pace → s.orch.tickT0.toNat + s.cfg.orch.tickPeriodUs ≤ s.env.platform.nowUs.toNat) := by
  cases hp : s.orch.phase <;> simp [State.atBoundary, hp, ← Bool.not_eq_true, early_iff]

theorem tickPhase_iff (p : Phase) : tickPhase p = true ↔ p ≠ .reset ∧ p ≠ .initFailed ∧ p ≠ .tickStart := by
  cases p <;> simp [tickPhase]

theorem cpuReady_iff : CpuReady s ↔ s.orch.fault = none ∧ allowed .bus s.env.agent s = true := by
  cases ha : s.env.agent <;> simp [CpuReady, allowed, ha]

theorem inspectReady_iff : InspectReady s ↔ s.orch.fault = none ∧ allowed .inspect s.env.agent s = true := by
  cases ha : s.env.agent <;> simp [InspectReady, allowed, ha, atBoundary_iff]

theorem creditReady_iff : CreditReady s ↔ s.orch.fault = none ∧ allowed .crst s.env.agent s = true := by
  cases ha : s.env.agent <;> simp [CreditReady, InspectReady, allowed, ha, atBoundary_iff]

theorem intReady_iff : IntReady s ↔ s.orch.fault = none ∧ allowed .int s.env.agent s = true := by
  cases ha : s.env.agent <;> simp [IntReady, allowed, ha, tickPhase_iff]

theorem tickReady_iff : TickReady s ↔ s.orch.fault = none ∧ allowed .tick s.env.agent s = true := by
  cases ha : s.env.agent <;> simp [TickReady, allowed, ha]

/-- An operation that is complete in one step, admitted and with its own conditions met. -/
theorem internal_effect (h : IntReady s) (hm : ∀ x ∈ more, x.1 = false) :
    internal more effect s = .next (effect s.beginOp).finishOp :=
  transact_effect (refusal_none_of_open (intReady_iff.1 h).1 (intReady_iff.1 h).2 hm)

/-- The inversion of such an operation. -/
theorem internal_cases (h : internal more effect s = .next t) :
    (∃ code, refusal .int more s = some code ∧ t = s.refuse code) ∨
      (refusal .int more s = none ∧ t = (effect s.beginOp).finishOp) :=
  transact_cases h

theorem internal_next (more : List (Bool × RefusalCode)) (effect : State → State) (s : State) :
    ∃ t, internal more effect s = .next t := transact_next ..

/-- A refused transaction changes nothing of the block (R346). -/
theorem refuse_blockSame (s : State) (code : RefusalCode) : BlockSame s (s.refuse code) := ⟨rfl, fun _ => rfl⟩

/-- HOST's operation with no status raised ends with `OK`. -/
theorem finishOp_status_ok (h : s.env.agent = .host → s.env.st = []) : s.env.agent = .host → s.finishOp.env.status = .ok := by
  intro ha
  simp [State.finishOp, State.byHost, ha, h ha]

theorem beginOp_st (s : State) : s.beginOp.env.st = if s.env.agent = .host then [] else s.env.st := by
  unfold State.beginOp State.byHost
  by_cases h : s.env.agent = .host <;> simp [h]

end Sys2Proof.Machine
end

