-- ==== Sys2Proof/Laws/Exec.lean ====
section
/-! SUPPORT. Every instruction is a transaction of its row of the access table, with conditions of its own and one effect:
`exec` said once, so that a law about all instructions is a law about `effectOf`. -/

namespace Sys2Proof.Machine

open Sys2Proof

/-- The instruction's own refusal conditions, in order. -/
def conditionsOf (i : Instr) (s : State) : List (Bool × RefusalCode) :=
  match i with
  | .rdRom _ => []
  | .rdBlk _ => []
  | .rdIn0 => []
  | .rdIn1 => []
  | .rdDsw => []
  | .rdIox _ => []
  | .rdAux _ => []
  | .rdNone _ => []
  | .wrSpra _ _ => []
  | .wrSprp _ _ => []
  | .wrIe _ _ => []
  | .wrSnd _ _ => []
  | .wrBlk _ _ => []
  | .wrNone _ _ => []
  | .inPort _ => []
  | .outVec _ _ => []
  | .outNone _ _ => []
  | .ird off => [(offsetOut s.cfg off, .illegalWord)]
  | .iwr off _ => [(offsetOut s.cfg off, .illegalWord)]
  | .crst => []
  | .reset => [(!paramsOk s.cfg, .badConfig), (!s.load.loaded s.cfg, .notLoaded)]
  | .tick => [(s.notBuilt, .notBuilt)]
  | .tatBuild => []
  | .sndParse => []
  | .sndRender _ => []
  | .sprPrep => []
  | .bandRender k b => s.bandRefusals s.notBuilt k b
  | .frameRender => s.frameRefusals
  | .inputSample => []
  | .powerEval => []
  | .vblank => []
  | .attract => []
  | .audioRefill => []
  | .palBuild => [(!s.load.pal.hasShape (palShape s.cfg), .notLoaded)]
  | .tilePass k b => s.bandRefusals s.notBuilt k b
  | .spritePass k b => s.bandRefusals s.video.palx.isNone k b
  | .cpuExec => []
  | .pace => []

/-- The effect of an operation that is complete in one step, between its beginning and its end. -/
def whole (f : State → State) (s : State) : State := (f s.beginOp).finishOp

/-- What the instruction does when it is not refused. -/
def effectOf (i : Instr) : State → State :=
  match i with
  | .rdRom a => fun s => s.answer (s.load.romByte a.toNat)
  | .rdBlk a => fun s => s.answer (s.byteAt (readOffset s.cfg a))
  | .rdIn0 => fun s => s.answer s.mio.in0
  | .rdIn1 => fun s => s.answer s.mio.in1
  | .rdDsw => fun s => s.answer s.cfg.map.dswValue
  | .rdIox _ => fun s => s.answer s.cfg.map.unmapped
  | .rdAux a => fun s => s.answer (if s.cfg.map.hasAux then s.load.romByte (auxOffset s.cfg a) else s.cfg.map.unmapped)
  | .rdNone _ => fun s => s.answer s.cfg.map.unmapped
  | .wrSpra a v => fun s => (s.setByte (writeOffset s.cfg a) v).done
  | .wrSprp a v => fun s => (s.setByte (writeOffset s.cfg a) v).done
  | .wrIe _ v => fun s => (s.setByte (ieOffset s.cfg) (v &&& 1#8)).done
  | .wrSnd a v => fun s => (s.setSnd (sndIndex s.cfg a) (v &&& 0x0F#8)).done
  | .wrBlk a v => fun s => (s.setByte (writeOffset s.cfg a) v).done
  | .wrNone _ _ => fun s => s.done
  | .inPort _ => fun s => s.answer s.cfg.map.portRdValue
  | .outVec _ v => fun s => (s.setIrqvec v).done
  | .outNone _ _ => fun s => s.done
  | .ird off => fun s => s.answer (s.byteAt off.toNat)
  | .iwr off v => fun s => (s.setByte off.toNat v).done
  | .crst => fun s => s.creditReset.done
  | .reset => fun s => s.reboot
  | .tick => fun s => s.startTick
  | .tatBuild => whole fun s => s.buildTat
  | .sndParse => whole fun s => s.parseSound
  | .sndRender n => whole fun s => (s.advanceVoices n.toNat).answerSamples (s.renderSamples n.toNat)
  | .sprPrep => whole fun s => s.prepSprites
  | .bandRender k b => whole fun s => s.renderBand k.toNat b.toNat
  | .frameRender => fun s => s.beginLong.beginBand 0
  | .inputSample => whole fun s => s.sampleInput
  | .powerEval => whole fun s => s.evalPower
  | .vblank => whole fun s => s.raiseVblank
  | .attract => fun s =>
    let stepped := s.beginOp.stepDetector
    if stepped.orch.cutDue then stepped.enterCutscene.setHostOp s.byHost else stepped.finishOp
  | .audioRefill => whole fun s => s.refillAudio
  | .palBuild => whole fun s => s.buildPal
  | .tilePass k b => whole fun s => s.drawTiles k.toNat b.toNat
  | .spritePass k b => whole fun s => s.drawSprites k.toNat b.toNat
  | .cpuExec => fun s => s.beginLong.runCpu
  | .pace => fun s => if s.byHost && !s.early then s.begin.finish else s.beginLong.enterPace

/-- `exec`, said once. -/
theorem exec_eq (i : Instr) (s : State) : exec i s = transact (cmdClass i) (conditionsOf i s) (effectOf i) s := by
  cases i <;> rfl

/-- Every instruction gives a next state. -/
theorem exec_next (i : Instr) (s : State) : ∃ t, exec i s = .next t := by
  rw [exec_eq]; exact transact_next ..

/-- The inversion of `exec`: refused, with nothing of the block changed, or admitted, with its effect. -/
theorem exec_cases {i : Instr} {s t : State} (h : exec i s = .next t) :
    (∃ code, refusal (cmdClass i) (conditionsOf i s) s = some code ∧ t = s.refuse code) ∨
      (refusal (cmdClass i) (conditionsOf i s) s = none ∧ t = effectOf i s) := by
  rw [exec_eq] at h; exact transact_cases h

theorem exec_refused {i : Instr} {s : State} {code : RefusalCode}
    (h : refusal (cmdClass i) (conditionsOf i s) s = some code) : exec i s = .next (s.refuse code) := by
  rw [exec_eq]; exact transact_refused h

theorem exec_effect {i : Instr} {s : State} (h : refusal (cmdClass i) (conditionsOf i s) s = none) :
    exec i s = .next (effectOf i s) := by
  rw [exec_eq]; exact transact_effect h

/-- An admitted instruction has its effect when none of its own conditions holds. -/
theorem exec_open {i : Instr} {s : State} (hf : s.orch.fault = none)
    (ha : allowed (cmdClass i) s.env.agent s = true) (hm : ∀ x ∈ conditionsOf i s, x.1 = false) :
    exec i s = .next (effectOf i s) := exec_effect (refusal_none_of_open hf ha hm)

/-- ORCH's phase transition always gives a next state. -/
theorem orchStep_next (s : State) : ∃ t, orchStep s = .next t := by
  unfold orchStep
  split <;> first | exact ⟨_, rfl⟩ | exact transact_next ..

/-- What a step can be: ORCH's transition, a change of levels, an instruction presented, or an illegal word refused. -/
theorem step_cases {s t : State} (h : step s = .next t) :
    (s.env.inputs = [] ∧ orchStep s = .next t) ∨
      (∃ rest, s.env.inputs = .turn :: rest ∧ orchStep (s.setInputs rest) = .next t) ∨
      (∃ p rest, s.env.inputs = .levels p :: rest ∧ t = (s.setInputs rest).setPlatform p) ∨
      (∃ a i rest, (a = .host ∨ a = .cpu) ∧ exec i ((s.setInputs rest).setAgent a) = .next t) ∨
      (∃ a code rest, t = ((s.setInputs rest).setAgent a).refuse code) := by
  unfold step advance at h
  split at h
  · exact .inl ⟨‹_›, h⟩
  · exact .inr (.inl ⟨_, ‹_›, h⟩)
  · cases h; exact .inr (.inr (.inl ⟨_, _, ‹_›, rfl⟩))
  · unfold present at h
    split at h
    · exact .inr (.inr (.inr (.inl ⟨_, _, _, .inl rfl, h⟩)))
    · cases h; exact .inr (.inr (.inr (.inr ⟨_, _, _, rfl⟩)))
  · unfold present at h
    split at h
    · exact .inr (.inr (.inr (.inl ⟨_, _, _, .inr rfl, h⟩)))
    · cases h; exact .inr (.inr (.inr (.inr ⟨_, _, _, rfl⟩)))

end Sys2Proof.Machine
end

