-- ==== Sys2Proof/Laws/PerInstr.lean ====
section
/-! SUPPORT. The family Encoding: the `CMD` field of an instruction's word is of the row of the access table
(60_exceptions.md R360) that the instruction belongs to, under every parameter record. -/

namespace Sys2Proof.Laws.Encoding

open Sys2Proof Sys2Proof.Machine

/-- The class read from the word is the instruction's class (30_encoding.md R101). -/
def Statement (i : Instr) : Prop := ∀ c : Params, cmdClassOf (wordCmd (encode c i)) = some (cmdClass i)

theorem cmd_busWord (cmd : BitVec 4) (data : Byte) (arg : Half) : wordCmd (busWord cmd data arg) = cmd :=
  wordCmd_packWord ..

theorem cmd_intWord (sub : BitVec 4) (arg : Half) : wordCmd (intWord sub arg) = 0xF#4 := wordCmd_packWord ..

/-- An instruction whose word is a bus word. Its uses unfold `encode` by definition: 38 theorems that rewrite with its equations
at once would each hold a thread while Lean derives them. -/
theorem of_busWord {i : Instr} {c : Params} {cmd : BitVec 4} {data : Byte} {arg : Half}
    (h : encode c i = busWord cmd data arg) (h' : cmdClassOf cmd = some (cmdClass i)) :
    cmdClassOf (wordCmd (encode c i)) = some (cmdClass i) := by rw [h, cmd_busWord, h']

/-- An instruction whose word is an `INT` word. -/
theorem of_intWord {i : Instr} {c : Params} {sub : BitVec 4} {arg : Half}
    (h : encode c i = intWord sub arg) (h' : cmdClassOf 0xF#4 = some (cmdClass i)) :
    cmdClassOf (wordCmd (encode c i)) = some (cmdClass i) := by rw [h, cmd_intWord, h']

theorem rdRom (a : Half) : Statement (.rdRom a) := fun _ => of_busWord rfl rfl

theorem rdBlk (a : Half) : Statement (.rdBlk a) := fun _ => of_busWord rfl rfl

theorem rdIn0 : Statement .rdIn0 := fun _ => of_busWord rfl rfl

theorem rdIn1 : Statement .rdIn1 := fun _ => of_busWord rfl rfl

theorem rdDsw : Statement .rdDsw := fun _ => of_busWord rfl rfl

theorem rdIox (a : Half) : Statement (.rdIox a) := fun _ => of_busWord rfl rfl

theorem rdAux (a : Half) : Statement (.rdAux a) := fun _ => of_busWord rfl rfl

theorem rdNone (a : Half) : Statement (.rdNone a) := fun _ => of_busWord rfl rfl

theorem wrSpra (a : Half) (v : Byte) : Statement (.wrSpra a v) := fun _ => of_busWord rfl rfl

theorem wrSprp (a : Half) (v : Byte) : Statement (.wrSprp a v) := fun _ => of_busWord rfl rfl

theorem wrIe (a : Half) (v : Byte) : Statement (.wrIe a v) := fun _ => of_busWord rfl rfl

theorem wrSnd (a : Half) (v : Byte) : Statement (.wrSnd a v) := fun _ => of_busWord rfl rfl

theorem wrBlk (a : Half) (v : Byte) : Statement (.wrBlk a v) := fun _ => of_busWord rfl rfl

theorem wrNone (a : Half) (v : Byte) : Statement (.wrNone a v) := fun _ => of_busWord rfl rfl

theorem inPort (p : Half) : Statement (.inPort p) := fun _ => of_busWord rfl rfl

theorem outVec (p : Half) (v : Byte) : Statement (.outVec p v) := fun _ => of_busWord rfl rfl

theorem outNone (p : Half) (v : Byte) : Statement (.outNone p v) := fun _ => of_busWord rfl rfl

theorem ird (o : Half) : Statement (.ird o) := fun _ => of_busWord rfl rfl

theorem iwr (o : Half) (v : Byte) : Statement (.iwr o v) := fun _ => of_busWord rfl rfl

theorem crst : Statement .crst := fun _ => of_busWord rfl rfl

theorem reset : Statement .reset := fun _ => of_busWord rfl rfl

theorem tick : Statement .tick := fun _ => of_busWord rfl rfl

theorem tatBuild : Statement .tatBuild := fun _ => of_intWord rfl rfl

theorem sndParse : Statement .sndParse := fun _ => of_intWord rfl rfl

theorem sndRender (n : Half) : Statement (.sndRender n) := fun _ => of_intWord rfl rfl

theorem sprPrep : Statement .sprPrep := fun _ => of_intWord rfl rfl

theorem bandRender (k b : Byte) : Statement (.bandRender k b) := fun _ => of_intWord rfl rfl

theorem frameRender : Statement .frameRender := fun _ => of_intWord rfl rfl

theorem inputSample : Statement .inputSample := fun _ => of_intWord rfl rfl

theorem powerEval : Statement .powerEval := fun _ => of_intWord rfl rfl

theorem vblank : Statement .vblank := fun _ => of_intWord rfl rfl

theorem attract : Statement .attract := fun _ => of_intWord rfl rfl

theorem audioRefill : Statement .audioRefill := fun _ => of_intWord rfl rfl

theorem palBuild : Statement .palBuild := fun _ => of_intWord rfl rfl

theorem tilePass (k b : Byte) : Statement (.tilePass k b) := fun _ => of_intWord rfl rfl

theorem spritePass (k b : Byte) : Statement (.spritePass k b) := fun _ => of_intWord rfl rfl

theorem cpuExec : Statement .cpuExec := fun _ => of_intWord rfl rfl

theorem pace : Statement .pace := fun _ => of_intWord rfl rfl

end Sys2Proof.Laws.Encoding
end

