-- ==== Sys2Proof/Laws/Run.lean ====
section
/-! SUPPORT. Runs of several steps put together, and the step of a machine nobody presents anything to (log 6). -/

namespace Sys2Proof.Machine

open Sys2Proof

theorem step_free {s : State} (h : s.env.inputs = []) : step s = orchStep s := by simp [step, advance, h]

theorem run_succ {s t : State} (n : Nat) (h : step s = .next t) : Host.Core.run core (n + 1) s = Host.Core.run core n t := by
  have h' : core.step s = .next t := h
  simp only [Host.Core.run, h']

/-- A run of `m + 1` steps begins with one. -/
theorem run_succ_cases {m : Nat} {s u : State} (h : Host.Core.run core (m + 1) s = .next u) :
    ∃ t, step s = .next t ∧ Host.Core.run core m t = .next u := by
  simp only [Host.Core.run] at h
  split at h
  · exact ⟨_, ‹_›, h⟩
  · cases h
  · cases h

/-- A run goes on where another ended. -/
theorem run_trans {m n : Nat} {s t u : State} (h : Host.Core.run core m s = .next t) (h' : Host.Core.run core n t = .next u) :
    Host.Core.run core (m + n) s = .next u := by
  induction m generalizing s with
  | zero => cases h; rw [Nat.zero_add]; exact h'
  | succ m ih =>
    obtain ⟨t', hs, hr⟩ := run_succ_cases h
    rw [Nat.succ_add, run_succ _ hs]
    exact ih hr

end Sys2Proof.Machine
end

