-- ==== Sys2Proof/Laws/Synth.lean ====
section
/-! SUPPORT. The voices over several samples: everything but the phase stays, and one more sample is one more advance
(44_wavetable_synth.md R235, R236). -/

namespace Sys2Proof.Machine

open Sys2Proof

@[simp] theorem sampleVoices_get (c : SynthParams) (vs : Vector Voice 3) (v : Fin 3) :
    (sampleVoices c vs)[v] = advancePhase c vs[v] := by
  match v with
  | 0 => rfl
  | 1 => rfl
  | 2 => rfl

/-- A register of the file is read as it is (30_encoding.md R111). -/
theorem nibble_of_lt {s : State} {i : Nat} (h : i < s.cfg.map.sndSize) : s.nibble i = (s.sndAt i).extractLsb' 0 4 := if_pos h

/-- A value in `[0, 65535]` is returned as it is (R235). -/
theorem toU16_toNat (v : Int) (h : 0 ≤ v) (h' : v ≤ 65535) : ((toU16 v).toNat : Int) = v := by
  rw [toU16, if_pos ⟨h, h'⟩, BitVec.toNat_ofInt]
  omega

/-- A wavetable sample lies in the range of `SAMPLE_T` (10_state.md R41). -/
theorem sampleAt_bounds (c : Params) (t : LoadTables) (w k : Nat) :
    -2 ^ (c.wsg.sampleBits - 1) ≤ t.sampleAt c w k ∧ t.sampleAt c w k < 2 ^ (c.wsg.sampleBits - 1) :=
  ⟨BitVec.le_toInt _, BitVec.toInt_lt⟩

@[simp] theorem renderOut_length (c : Params) (t : LoadTables) (n : Nat) (vs : Vector Voice 3) :
    (renderOut c t n vs).length = n := by
  induction n generalizing vs with
  | zero => rfl
  | succ n ih => simp [renderOut, ih]

/-- Rendering `m` samples and then `n` is rendering `m + n` (R236). -/
theorem renderVoices_add (c : SynthParams) (m n : Nat) (vs : Vector Voice 3) :
    renderVoices c (m + n) vs = renderVoices c n (renderVoices c m vs) := by
  induction m generalizing vs with
  | zero => simp [renderVoices]
  | succ m ih => rw [Nat.succ_add]; exact ih _

theorem renderOut_add (c : Params) (t : LoadTables) (m n : Nat) (vs : Vector Voice 3) :
    renderOut c t (m + n) vs = renderOut c t m vs ++ renderOut c t n (renderVoices c.wsg m vs) := by
  induction m generalizing vs with
  | zero => simp [renderVoices, renderOut]
  | succ m ih => rw [Nat.succ_add]; simp [renderOut, renderVoices, ih]

/-- The `i`-th sample is the mix of the voices `i` samples later. -/
theorem renderOut_getElem? (c : Params) (t : LoadTables) (n i : Nat) (vs : Vector Voice 3) (h : i < n) :
    (renderOut c t n vs)[i]? = some (sampleOut c t (renderVoices c.wsg i vs)) := by
  induction n generalizing i vs with
  | zero => omega
  | succ n ih =>
    cases i with
    | zero => rfl
    | succ i => simpa [renderOut, renderVoices] using ih i (sampleVoices c.wsg vs) (by omega)

end Sys2Proof.Machine
end

