-- ==== Sys2Proof/Laws/Video.lean ====
section
/-! SUPPORT. The band buffers: what drawing over one leaves at a place, and that every drawing keeps its shape
(10_state.md R46). -/

namespace Sys2Proof.Machine

open Sys2Proof

@[simp] theorem mapFrom_length {α β : Type} (f : Nat → α → β) (n : Nat) (l : List α) :
    (mapFrom f n l).length = l.length := by
  induction l generalizing n with
  | nil => rfl
  | cons x rest ih => simp [mapFrom, ih]

theorem mapFrom_getElem? {α β : Type} (f : Nat → α → β) (n : Nat) (l : List α) (i : Nat) :
    (mapFrom f n l)[i]? = l[i]?.map (f (n + i)) := by
  induction l generalizing n i with
  | nil => simp [mapFrom]
  | cons x rest ih =>
    cases i with
    | zero => simp [mapFrom]
    | succ i => simp [mapFrom, ih]; congr 2; omega

theorem mapFrom_getElem {α β : Type} (f : Nat → α → β) (n : Nat) (l : List α) (i : Nat) (h : i < (mapFrom f n l).length) :
    (mapFrom f n l)[i] = f (n + i) (l[i]'(by simpa using h)) := by
  have := mapFrom_getElem? f n l i
  rw [List.getElem?_eq_getElem h, List.getElem?_eq_getElem (by simpa using h)] at this
  simpa using this

theorem mem_mapFrom {α β : Type} {f : Nat → α → β} {n : Nat} {l : List α} {y : β} (h : y ∈ mapFrom f n l) :
    ∃ i x, x ∈ l ∧ y = f i x := by
  induction l generalizing n with
  | nil => simp [mapFrom] at h
  | cons x rest ih =>
    rcases List.mem_cons.1 h with rfl | h
    · exact ⟨n, x, by simp, rfl⟩
    · obtain ⟨i, x', hx, rfl⟩ := ih h
      exact ⟨i, x', by simp [hx], rfl⟩

/-- `lines` lines of `width` words. -/
def shaped (lines width : Nat) (b : Band) : Prop := b.length = lines ∧ ∀ line ∈ b, line.length = width

theorem drawOver_shaped {lines width : Nat} {b : Band} (f : Nat → Nat → Option Half) (h : shaped lines width b) :
    shaped lines width (drawOver f b) := by
  refine ⟨by simpa [drawOver] using h.1, fun line hl => ?_⟩
  obtain ⟨i, x, hx, rfl⟩ := mem_mapFrom hl
  simpa using h.2 x hx

theorem blackBand_shaped (c : Params) : shaped c.geo.bandLines c.width (blackBand c) := by
  refine ⟨by simp [blackBand], fun line hl => ?_⟩
  rw [List.eq_of_mem_replicate hl]; simp

/-- What drawing over a band leaves at a place of it. -/
theorem drawOver_getD {lines width l x : Nat} {b : Band} (f : Nat → Nat → Option Half) (h : shaped lines width b)
    (hl : l < lines) (hx : x < width) :
    ((drawOver f b).getD l []).getD x 0#16 = (f l x).getD ((b.getD l []).getD x 0#16) := by
  have hb : l < b.length := h.1 ▸ hl
  have hw : (b[l]).length = width := h.2 _ (List.getElem_mem hb)
  have hx' : x < (b[l]).length := hw ▸ hx
  simp [drawOver, List.getD_eq_getElem?_getD, mapFrom_getElem, hb, hx']

/-- Drawing several times over a band keeps its shape. -/
theorem foldl_drawOver_shaped {α : Type} {lines width : Nat} (g : α → Nat → Nat → Option Half) (l : List α) (b : Band)
    (h : shaped lines width b) : shaped lines width (l.foldl (fun buf a => drawOver (g a) buf) b) := by
  induction l generalizing b with
  | nil => exact h
  | cons a rest ih => exact ih _ (drawOver_shaped _ h)

/-- Drawing several times over a band: at every place, one over the other. -/
theorem foldl_drawOver_getD {α : Type} {lines width r x : Nat} (g : α → Nat → Nat → Option Half) (l : List α) (b : Band)
    (h : shaped lines width b) (hr : r < lines) (hx : x < width) :
    ((l.foldl (fun buf a => drawOver (g a) buf) b).getD r []).getD x 0#16 =
      l.foldl (fun old a => (g a r x).getD old) ((b.getD r []).getD x 0#16) := by
  induction l generalizing b with
  | nil => rfl
  | cons a rest ih => simp only [List.foldl_cons]; rw [ih _ (drawOver_shaped _ h), drawOver_getD _ h hr hx]

/-! Rendering a band reads the launch, the block, the tables and the sprite list, and nothing else (43_sprite_compositor.md
R210). -/

variable {s u : State}

theorem tilePixel_congr (hc : u.cfg = s.cfg) (hl : u.load = s.load) (hb : u.mio.blk = s.mio.blk)
    (ht : u.video.tat = s.video.tat) (hp : u.video.palx = s.video.palx) : u.tilePixel = s.tilePixel := by
  funext b l x
  unfold State.tilePixel State.tatAt State.byteAt State.palxAt
  rw [hc, hl, hb, ht, hp]

theorem spritePixel_congr (hc : u.cfg = s.cfg) (hl : u.load = s.load) (hp : u.video.palx = s.video.palx) :
    u.spritePixel = s.spritePixel := by
  funext sp b l x
  unfold State.spritePixel State.palxAt
  rw [hc, hl, hp]

/-- What `BAND_RENDER` leaves in its buffer: the sprites over the tiles over `BLACK`. -/
theorem renderBand_band (s : State) (k b : Nat) : (s.renderBand k b).band k =
    s.video.asl.foldl (fun buf sp => drawOver (s.spritePixel sp b) buf) (drawOver (s.tilePixel b) (blackBand s.cfg)) := by
  unfold State.renderBand State.drawSprites State.drawTiles
  simp only [State.band_setBand_same, State.setBand_video_asl, State.setOwner_video_asl]
  rw [tilePixel_congr (s := s), spritePixel_congr (s := s)] <;> simp

/-- `BAND_RENDER` leaves a buffer of the shape of 10_state.md R46, whatever it held. -/
theorem renderBand_shaped (s : State) (k b : Nat) :
    shaped s.cfg.geo.bandLines s.cfg.width ((s.renderBand k b).band k) := by
  rw [renderBand_band]
  exact foldl_drawOver_shaped _ _ _ (drawOver_shaped _ (blackBand_shaped _))

theorem renderBand_band_congr (k b : Nat) (hc : u.cfg = s.cfg) (hl : u.load = s.load) (hb : u.mio.blk = s.mio.blk)
    (ht : u.video.tat = s.video.tat) (hp : u.video.palx = s.video.palx) (ha : u.video.asl = s.video.asl) :
    (u.renderBand k b).band k = (s.renderBand k b).band k := by
  rw [renderBand_band, renderBand_band, ha, hc, tilePixel_congr hc hl hb ht hp, spritePixel_congr hc hl hp]

/-- A buffer of drawn words has the shape of a band. -/
theorem drawnBand_shaped (c : Params) (n k : Nat) : shaped c.geo.bandLines c.width (drawnBand c n k) := by
  refine ⟨by simp [drawnBand], fun line hl => ?_⟩
  obtain ⟨l, -, rfl⟩ := List.mem_map.1 hl
  simp

/-- The return of a wait leaves the other buffer as it was. -/
theorem waitReturned_band_other (s : State) (j k : Nat) (h : ¬(j % 2 = 0 ↔ k = 0)) :
    (s.waitReturned j).band k = s.band k := by
  unfold State.waitReturned
  rw [State.band_drew, State.band_setBand_other _ _ _ _ h]
  simp [State.band]

/-! Under a record whose tables have the entry that is asked for, as P0's do, the free values of logs 31 to 33 do not occur. -/

theorem palxAt_of_lt {g e : Nat} (h : e < s.cfg.spr.groupLen) :
    s.palxAt g e = ((s.video.palx.getD []).getD g []).getD e 0#16 := if_pos h

theorem tileRowPixel_of_lt {row : Half} {px : Nat} (h : px < 8) : tileRowPixel row px = pixelOf row px := if_pos h

theorem tileRow_of_lt {c : Params} {t : LoadTables} {tile row : Nat} (h : tile < c.geo.ntiles) :
    t.tileRow c tile row = t.tg.get (tile * c.geo.tileH + row) := if_pos h

theorem spriteRow_of_lt {c : Params} {t : LoadTables} {flip code row : Nat} (h : flip < c.spr.nflip) :
    t.spriteRow c flip code row = t.sg.get ((flip * c.spr.sprCodeLimit + code) * c.spr.sprH + row) := if_pos h

/-- A coordinate in the 16-bit range is stored as it is (10_state.md R45). -/
theorem toI16_toInt (v : Int) (h : -32768 ≤ v) (h' : v ≤ 32767) : (toI16 v).toInt = v := by
  rw [toI16, if_pos ⟨h, h'⟩, BitVec.toInt_ofInt]
  have := Int.bmod_def v (2 ^ 16)
  omega

/-- `SPR_PREP` leaves a good sprite list, whatever the list was (43_sprite_compositor.md R192, 10_state.md R45). -/
theorem prepSprites_spritesOk (s : State) : SpritesOk s.prepSprites := by
  refine ⟨?_, fun d hd => ?_⟩
  · simpa [State.prepSprites] using List.length_filter_le s.keepSlot (List.range s.cfg.spr.nsprites).reverse
  · obtain ⟨i, hi, rfl⟩ := List.mem_map.1 hd
    have hk : s.keepSlot i = true := (List.mem_filter.1 hi).2
    simp only [State.keepSlot, Bool.and_eq_true, decide_eq_true_eq] at hk
    refine ⟨hk.1, by simp [State.slot, colorIndex, BitVec.and_assoc], fun hf => ?_⟩
    have hv := hk.2
    simp only [ScreenFits, State.prepSprites_cfg] at hf
    simp only [visible, Bool.and_eq_true, decide_eq_true_eq] at hv
    have hx : (s.slot i).x.toInt = s.slotX i := toI16_toInt _ (by omega) (by omega)
    have hy : (s.slot i).y.toInt = s.slotY i := toI16_toInt _ (by omega) (by omega)
    rw [hx, hy]
    exact hk.2

end Sys2Proof.Machine
end

