-- ==== Sys2Proof/Tests/Slice0.lean ====
section
/-! SUPPORT. The model's own tests. Words and expected values are those of 95_test_vectors.md (the group is named at each
test) or written out from the encoding tables of 30_encoding.md; `test_witness_X` meets the hypotheses of `Obligations.X`,
clause by clause. -/

namespace Sys2Proof.Tests

open Sys2Proof Sys2Proof.Machine

set_option maxRecDepth 100000

/-! ### Decoding: every constructor, from V-DEC and the tables of R102 to R107 -/

theorem test_decode_reads :
    decode p0 0x10003FFF#32 = some (.rdRom 0x3FFF#16) ∧ decode p0 0x10004FFF#32 = some (.rdBlk 0x4FFF#16) ∧
      decode p0 0x10005000#32 = some .rdIn0 ∧ decode p0 0x10005040#32 = some .rdIn1 ∧
      decode p0 0x10005080#32 = some .rdDsw ∧ decode p0 0x10005FFF#32 = some (.rdIox 0x5FFF#16) ∧
      decode p0ms 0x10008000#32 = some (.rdAux 0x8000#16) ∧ decode p0 0x10008000#32 = some (.rdNone 0x8000#16) ∧
      decode p0 0x1000CE00#32 = some (.rdNone 0xCE00#16) := by decide

theorem test_decode_writes :
    decode p0 0x2085CFF0#32 = some (.wrSpra 0xCFF0#16 0x85#8) ∧ decode p0 0x20805060#32 = some (.wrSprp 0x5060#16 0x80#8) ∧
      decode p0 0x2001D000#32 = some (.wrIe 0xD000#16 0x01#8) ∧ decode p0 0x200F5055#32 = some (.wrSnd 0x5055#16 0x0F#8) ∧
      decode p0 0x2041C3A0#32 = some (.wrBlk 0xC3A0#16 0x41#8) ∧ decode p0 0x20775100#32 = some (.wrBlk 0x5100#16 0x77#8) ∧
      decode p0 0x20000000#32 = some (.wrNone 0x0000#16 0x00#8) ∧ decode p0 0x2000E000#32 = some (.wrNone 0xE000#16 0x00#8) := by
  decide

theorem test_decode_ports_and_host :
    decode p0 0x30000000#32 = some (.inPort 0x0000#16) ∧ decode p0 0x40CF1200#32 = some (.outVec 0x1200#16 0xCF#8) ∧
      decode p0 0x40120001#32 = some (.outNone 0x0001#16 0x12#8) ∧ decode p0 0x50001FFF#32 = some (.ird 0x1FFF#16) ∧
      decode p0 0x60010E00#32 = some (.iwr 0x0E00#16 0x01#8) ∧ decode p0 0x70000000#32 = some .crst ∧
      decode p0 0x80000000#32 = some .reset ∧ decode p0 0x90000000#32 = some .tick := by decide

theorem test_decode_internal :
    decode p0 0xF0000000#32 = some .tatBuild ∧ decode p0 0xF1000000#32 = some .sndParse ∧
      decode p0 0xF2000004#32 = some (.sndRender 4#16) ∧ decode p0 0xF3000000#32 = some .sprPrep ∧
      decode p0 0xF4000102#32 = some (.bandRender 1#8 2#8) ∧ decode p0 0xF5000000#32 = some .frameRender ∧
      decode p0 0xF6000000#32 = some .inputSample ∧ decode p0 0xF7000000#32 = some .powerEval ∧
      decode p0 0xF8000000#32 = some .vblank ∧ decode p0 0xF9000000#32 = some .attract ∧
      decode p0 0xFA000000#32 = some .audioRefill ∧ decode p0 0xFB000000#32 = some .palBuild ∧
      decode p0 0xFC000123#32 = some (.tilePass 1#8 35#8) ∧ decode p0 0xFD000023#32 = some (.spritePass 0#8 35#8) ∧
      decode p0 0xFE000000#32 = some .cpuExec ∧ decode p0 0xFF000000#32 = some .pace := by decide

theorem test_decode_illegal :
    decode p0 0x00000000#32 = none ∧ decode p0 0xA0000000#32 = none ∧ decode p0 0xE0000000#32 = none ∧
      decode p0 0x91000000#32 = none ∧ decode p0 0x10FF0000#32 = none ∧ decode p0 0x50002000#32 = none ∧
      decode p0 0x6001E000#32 = none ∧ decode p0 0xF4000200#32 = none ∧ decode p0 0xFC000024#32 = none ∧
      decode p0 0xF0000001#32 = none := by decide

theorem test_encode_spec_words :
    encode p0 (.rdIn0) = 0x10005000#32 ∧ encode p0 (.wrSpra 0xCFF0#16 0x85#8) = 0x2085CFF0#32 ∧
      encode p0 (.outVec 0x1200#16 0xCF#8) = 0x40CF1200#32 ∧ encode p0 (.iwr 0x0E00#16 0x01#8) = 0x60010E00#32 ∧
      encode p0 (.bandRender 1#8 2#8) = 0xF4000102#32 := by decide

theorem test_decodeTableWord :
    decodeTableWord 32 0x10008000 = some (.rdAux 0x8000#16) ∧ decodeTableWord 32 0xFF000000 = some .pace := by decide

/-! ### WellFormed: every check refuses an ill-formed term -/

theorem test_illFormed_reads :
    (Instr.rdRom 0x4000#16).wellFormed p0 = false ∧ (Instr.rdBlk 0x5000#16).wellFormed p0 = false ∧
      (Instr.rdIox 0x5040#16).wellFormed p0 = false ∧ (Instr.rdAux 0x8000#16).wellFormed p0 = false ∧
      (Instr.rdAux 0xA000#16).wellFormed p0ms = false ∧ (Instr.rdNone 0x0000#16).wellFormed p0 = false := by decide

/-- A record whose port addresses lie in the ROM window has no word for the port reads. -/
theorem test_illFormed_port_reads :
    let c : Params := { p0 with map := { p0Map with in0Addr := 0#16, in1Addr := 0#16, dswAddr := 0#16 } }
    Instr.rdIn0.wellFormed c = false ∧ Instr.rdIn1.wellFormed c = false ∧ Instr.rdDsw.wellFormed c = false := by decide

theorem test_illFormed_writes :
    (Instr.wrSpra 0x5000#16 0#8).wellFormed p0 = false ∧ (Instr.wrSprp 0x5070#16 0#8).wellFormed p0 = false ∧
      (Instr.wrIe 0x5001#16 0#8).wellFormed p0 = false ∧ (Instr.wrSnd 0x5060#16 0#8).wellFormed p0 = false ∧
      (Instr.wrBlk 0x6000#16 0#8).wellFormed p0 = false ∧ (Instr.wrNone 0xC000#16 0#8).wellFormed p0 = false := by decide

theorem test_illFormed_operands :
    (Instr.outVec 0x0001#16 0#8).wellFormed p0 = false ∧ (Instr.outNone 0x1200#16 0#8).wellFormed p0 = false ∧
      (Instr.ird 0x2000#16).wellFormed p0 = false ∧ (Instr.iwr 0x2000#16 0#8).wellFormed p0 = false ∧
      (Instr.bandRender 2#8 0#8).wellFormed p0 = false ∧ (Instr.bandRender 0#8 36#8).wellFormed p0 = false ∧
      (Instr.tilePass 2#8 0#8).wellFormed p0 = false ∧ (Instr.spritePass 0#8 36#8).wellFormed p0 = false := by decide

/-! ### One step each -/

/-- HOST in `TICK_START`, as a `RESET` leaves the block, with black band buffers. -/
def host : State := State.reset.bringUp.boot

/-- The CPU in `CPU_EXEC`, right after reset. -/
def cpu : State := (host.setPhase .cpuExec).setAgent .cpu

/-- A state with some bytes of `blk`. -/
def withBytes (s : State) (l : Memory) : State := l.foldl (fun s x => s.setByte x.1 x.2) s

/-- A state with load tables that hold a few entries. -/
def withTables (s : State) (f : LoadTables → LoadTables) : State := { s with load := f s.load }

/-- A state under another parameter record. -/
def onRecord (s : State) (c : Params) : State := { s with cfg := c }

/-- The state after an instruction. -/
def after (i : Instr) (s : State) : State :=
  match exec i s with
  | .next t => t
  | .fault _ => s
  | .refused _ => s

/-- V-BUS 1, 2, 10. -/
theorem test_rdRom :
    let s := withTables cpu fun t => { t with rom := { t.rom with cells := [(0, 0xF3#8), (0x3FFF, 0x5A#8)] } }
    (after (.rdRom 0x0000#16) s).env.reply = .byte 0xF3#8 ∧ (after (.rdRom 0x3FFF#16) s).env.reply = .byte 0x5A#8 := by decide

theorem test_rdAux :
    let s := withTables cpu.launchAux fun t => { t with rom := { t.rom with cells := [(0x4000, 0x3E#8)] } }
    (after (.rdAux 0x8000#16) s).env.reply = .byte 0x3E#8 := by decide

/-- V-BUS 3, 12. -/
theorem test_rdBlk :
    (after (.rdBlk 0x4000#16) cpu).env.reply = .byte 0x00#8 ∧
      (after (.rdBlk 0x4E00#16) (cpu.setByte 0x0E00 0x77#8)).env.reply = .byte 0x77#8 := by decide

/-- V-BUS 4 to 9. -/
theorem test_rdPorts :
    (after .rdIn0 cpu).env.reply = .byte 0xFF#8 ∧ (after .rdIn1 cpu).env.reply = .byte 0xFF#8 ∧
      (after .rdDsw cpu).env.reply = .byte 0xC9#8 ∧ (after (.rdIox 0x507F#16) cpu).env.reply = .byte 0xFF#8 ∧
      (after (.rdNone 0x8000#16) cpu).env.reply = .byte 0xFF#8 := by decide

/-- V-BUS 13, 14. -/
theorem test_wrSprites :
    (after (.wrSpra 0xCFF0#16 0x85#8) cpu).byteAt 0x0FF0 = 0x85#8 ∧
      (after (.wrSprp 0x5060#16 0x80#8) cpu).byteAt 0x1060 = 0x80#8 := by decide

/-- V-BUS 15 to 17. -/
theorem test_wrIe :
    (after (.wrIe 0x5000#16 0xFF#8) cpu).byteAt 0x1000 = 0x01#8 ∧
      (after (.wrIe 0x5000#16 0xFE#8) (cpu.setByte 0x1000 1#8)).byteAt 0x1000 = 0x00#8 := by decide

/-- V-BUS 18 to 20. -/
theorem test_wrSnd :
    (after (.wrSnd 0x5055#16 0xAF#8) cpu).sndAt 0x15 = 0x0F#8 ∧ (after (.wrSnd 0x5055#16 0xAF#8) cpu).byteAt 0x1055 = 0#8 ∧
      (after (.wrSnd 0x505F#16 0xF0#8) cpu).sndAt 0x1F = 0x00#8 := by decide

/-- V-BUS 11, 22. -/
theorem test_wrBlk :
    (after (.wrBlk 0xCE00#16 0x22#8) (cpu.setByte 0x0E00 0x11#8)).byteAt 0x0E00 = 0x22#8 ∧
      (after (.wrBlk 0x5FFF#16 0x01#8) cpu).byteAt 0x1FFF = 0x01#8 := by decide

/-- V-BUS 25, 28: nothing is written. -/
theorem test_writes_discarded :
    (after (.wrNone 0xB000#16 0x99#8) cpu).mio = cpu.mio ∧ (after (.outNone 0x0001#16 0x12#8) cpu).mio = cpu.mio := by decide

/-- V-BUS 26, 27, 29. -/
theorem test_ports :
    (after (.outVec 0x1200#16 0x10#8) cpu).mio.irqvec = 0x10#8 ∧ (after (.inPort 0x00FF#16) cpu).env.reply = .byte 0xFF#8 := by
  decide

/-- V-ORCH, credit reset and inspection. -/
theorem test_inspection :
    (after (.iwr 0x1055#16 0xAF#8) host).byteAt 0x1055 = 0xAF#8 ∧ (after (.iwr 0x1055#16 0xAF#8) host).sndAt 0x15 = 0#8 ∧
      (after (.ird 0x0E00#16) (host.setByte 0x0E00 0x07#8)).env.reply = .byte 0x07#8 := by decide

theorem test_crst :
    let s := after .crst (withBytes host [(0x0E6B, 9#8), (0x0E6C, 9#8), (0x0E6E, 2#8)])
    s.byteAt 0x0E6B = 0#8 ∧ s.byteAt 0x0E6C = 9#8 ∧ s.byteAt 0x0E6E = 0#8 := by decide

/-- V-RST 2 and V-REF: a failed initialisation, and a CPU word from HOST. -/
theorem test_refusals :
    let noSpc := { host with env := { host.env with platform := { host.env.platform with allocSpc := false } } }
    (host.failInit .spc).orch.fault = some .spc ∧ allocFailure noSpc.env.platform = some .spc ∧
      (after .tick (host.failInit .spc)).env.status = .refused .faulted ∧
      (after (.rdRom 0#16) host).env.status = .refused .badPhase ∧
      (after (.bandRender 2#8 0#8) host).env.status = .refused .illegalWord := by decide

/-- R341: the numeric codes. -/
theorem test_status_codes :
    [Status.ok, .audioDropped 44, .cutsceneFailed, .initFail .spc].map Status.code = [0x00#8, 0x01#8, 0x02#8, 0x03#8] ∧
      [RefusalCode.illegalWord, .badPhase, .notLoaded, .notBuilt, .bufferInflight, .faulted, .badConfig].map
          (fun c => (Status.refused c).code) = [0x10#8, 0x11#8, 0x12#8, 0x13#8, 0x14#8, 0x15#8, 0x16#8] := by decide

/-- R381, R386: before the first `RESET` nothing but `RESET` is admitted, and ORCH does not move. -/
theorem test_powerUp :
    (after .tick State.reset).env.status = .refused .badPhase ∧ (after (.ird 0#16) State.reset).env.status = .refused .badPhase ∧
      (∃ t, step State.reset = .next t ∧ t.orch.phase = .reset ∧ t.env.trace = []) ∧
      (after .reset State.reset).orch.phase = .tickStart ∧ (after .reset State.reset).env.status = .ok :=
  ⟨by decide, by decide, ⟨_, rfl, rfl, rfl⟩, by decide, by decide⟩

/-- R82, R290: inspection is refused inside an operation and admitted at a boundary. -/
theorem test_inspection_boundaries :
    let busy (p : Phase) : State :=
      { host.setPhase p with env := { host.env with platform := { host.env.platform with dispDone := false } } }
    (after (.ird 0#16) (busy .bandWait)).env.status = .refused .badPhase ∧
      (after (.iwr 0#16 1#8) (busy .frameWait)).env.status = .refused .badPhase ∧
      (after .crst ((host.setPhase .cutscene).setCutDue true)).env.status = .refused .badPhase ∧
      (after (.ird 0#16) (host.setPhase .cutscene)).env.status = .ok ∧
      (after (.ird 0#16) ((host.setPhase .attract).setCutDue true)).env.status = .ok ∧
      (after (.ird 0#16) (host.setPhase .pace)).env.status = .refused .badPhase ∧
      (after (.ird 0#16) (host.setPhase .bandWait)).env.status = .ok ∧ (after (.ird 0#16) (busy .bandSend)).env.status = .ok := by
  decide

/-- R13 and R232: `PHASE_SHIFT` 10 with `PHASE_W` 15, and another number of voices, are bad records. -/
theorem test_reset_badConfig :
    let bad (w : SynthParams) : Status := (after .reset { host with cfg := { p0 with wsg := w } }).env.status
    bad { p0Wsg with phaseShift := 10, phaseW := 15 } = .refused .badConfig ∧
      bad { p0Wsg with nvoices := 4 } = .refused .badConfig ∧ bad { p0Wsg with phaseW := 18 } = .ok := by decide

/-- V-RST 1, 5, 6: what a reset leaves, and the two refusals. -/
theorem test_reset :
    (host.reboot).orch.phase = .tickStart ∧ (host.reboot).tatAt 0 0 = 0x3DD ∧ (host.reboot).env.status = .ok ∧
      (after .reset (withTables host fun t => { t with wt := ⟨[], []⟩ })).env.status = .refused .notLoaded ∧
      (after .reset { host with cfg := { p0 with geo := { p0Geo with bandCount := 0 } } }).env.status =
        .refused .badConfig := by decide

/-- V-ORCH, TICK call counts: the tick starts the CPU with its budget. -/
theorem test_tick_cpuExec :
    (after .tick host).env.trace = bootCalls p0 ++ [.cpuExecute 50688] ∧ (after .cpuExec host).orch.phase = .cpuExec := by decide

/-- V-TAS, the end columns of every region. -/
theorem test_tatBuild :
    let s := after .tatBuild { host with video := { host.video with tat := none } }
    s.tatAt 0 27 = 0x3C2 ∧ s.tatAt 1 0 = 0x3FD ∧ s.tatAt 2 27 = 0x040 ∧ s.tatAt 33 0 = 0x3BF ∧ s.tatAt 34 0 = 0x01D ∧
      s.tatAt 35 27 = 0x022 := by decide

/-- V-PAL. -/
theorem test_palBuild :
    let s := withTables host fun t => { t with pal := { t.pal with cells := [(5, 0xF800#16), (6, 0x07E0#16)] } }
    (after .palBuild s).palxAt 1 1 = 0x00F8#16 ∧ (after .palBuild s).palxAt 1 2 = 0xE007#16 := by decide

/-- The state of V-TILE, rows 3 and 4. -/
def tiled (row : Half) : State :=
  (withTables (withBytes host [(0x3A0, 0x41#8), (0x7A0, 0xC1#8)]) fun t =>
    { t with
      tg := { t.tg with cells := [(0x41 * 8, row)] }
      pal := { t.pal with cells := [(5, 0xF800#16), (6, 0x07E0#16), (7, 0x001F#16)] } }).buildPal

theorem test_tilePass :
    (tiled 0x0001#16).tilePixel 2 0 0 = some 0x00F8#16 ∧ (tiled 0x0001#16).tilePixel 2 0 1 = none ∧
      (tiled 0xC000#16).tilePixel 2 0 7 = some 0x1F00#16 ∧ (tiled 0x0001#16).tilePixel 2 1 0 = none := by decide

/-- Records that RESET admits and whose tables lack what is asked for: free values (logs 31 to 34). -/
theorem test_outside_tables :
    let short := onRecord host { p0 with spr := { p0Spr with groupLen := 2, nflip := 2 }, geo := { p0Geo with ntiles := 16 } }
    let few := onRecord host { p0 with map := { p0Map with sndSize := 16 } }
    paramsOk short.cfg = true ∧ short.palxAt 1 3 = Config.noColour 1 3 ∧ tileRowPixel 0xFFFF#16 8 = Config.noTilePixel 0xFFFF#16 8 ∧
      short.load.tileRow short.cfg 16 0 = Config.noTileRow 16 0 ∧
      short.load.spriteRow short.cfg 2 5 0 = Config.noSpriteRow 2 5 0 ∧ paramsOk few.cfg = true ∧
      few.nibble 0x15 = Config.noNibble 0x15 := ⟨by decide, rfl, rfl, rfl, rfl, by decide, rfl⟩

/-- V-SPR, decoding of the first row. -/
theorem test_sprPrep :
    (after .sprPrep (withBytes host [(0x0FF0, 0x85#8), (0x0FF1, 0x03#8), (0x1060, 0x80#8), (0x1061, 0x80#8)])).video.asl.getLast? =
      some { x := 111#16, y := 144#16, code := 33#6, color := 3#8, flip := 1#2 } := by decide

/-- V-SPR, drawing 1: a sprite at x = 220 with every pixel 1. -/
theorem test_spritePass :
    let s := (withTables host fun t =>
      { t with sg := { t.sg with cells := [(5 * 16, 0x55555555#32)] }, pal := { t.pal with cells := [(9, 0x3412#16)] } }).buildPal
    let sp : Sprite := { x := 220#16, y := 16#16, code := 5#6, color := 2#8, flip := 0#2 }
    s.spritePixel sp 2 0 220 = some 0x1234#16 ∧ s.spritePixel sp 2 0 223 = some 0x1234#16 ∧ s.spritePixel sp 2 0 219 = none ∧
      s.spritePixel sp 2 0 224 = none ∧ s.spritePixel sp 4 0 220 = none := by decide

/-- V-SPR, the masks of the horizontal clip. -/
theorem test_spriteMask :
    spriteMask 224 (-15) = 0xC0000000#32 ∧ spriteMask 224 (-1) = 0xFFFFFFFC#32 ∧ spriteMask 224 0 = 0xFFFFFFFF#32 ∧
      spriteMask 224 209 = 0x3FFFFFFF#32 ∧ spriteMask 224 220 = 0x000000FF#32 := by decide

/-- R210: the band belongs to the renderer, and what stood in it is gone. -/
theorem test_bandRender :
    let s := host.setBand 1 [[0x7777#16]]
    (after (.bandRender 1#8 2#8) s).owner 1 = .render ∧ (after (.bandRender 1#8 2#8) s).pixel 1 0 0 = 0x0000#16 := by decide

/-- R45: coordinates are signed 16-bit. -/
theorem test_toI16 : toI16 (-16) = 0xFFF0#16 ∧ (toI16 (-16)).toInt = -16 ∧ toI16 272 = 0x0110#16 := by decide

/-- R213: the wait frees the buffer of the band that was sent, and only that buffer's words are drawn anew. -/
theorem test_waitReturned :
    let s := host.sendBand 0
    s.owner 0 = .inflight ∧ s.video.dispBusy = true ∧ (s.waitReturned 0).owner 0 = .free ∧
      (s.waitReturned 0).video.dispBusy = false ∧ (s.waitReturned 0).env.draws = s.env.draws + 1 ∧
      (s.waitReturned 0).video.buf1 = s.video.buf1 := by
  refine ⟨by decide, by decide, by decide, by decide, by decide, rfl⟩

theorem test_frameRender :
    (after .frameRender host).orch.phase = .bandRender ∧ (after .frameRender host).owner 0 = .render := by decide

/-- V-SND, Parse, rows 2 and 6. -/
theorem test_sndParse :
    let s := ((host.setSnd 0x15 0xF#8).setSnd 0x05 2#8).setSnd 0x13 2#8
    (after .sndParse s).voices[0] = { phase := 0, freq := 0x2000#20, wave := .wave 2#4, vol := 15#4 } ∧
      (after .sndParse ((host.setSnd 0x1A 1#8).setSnd 0x16 0xF#8)).voices[1] =
        { phase := 0, freq := 0x000F0#20, wave := .wave 0#4, vol := 1#4 } := by decide

/-- The state of V-SND's render rows: `WT[2][k] = k - 16` at the places used. -/
def voiced (phase : Nat) : State :=
  (withTables host fun t => { t with wt := { t.wt with cells := [(64, -16), (65, -15), (76, -4), (95, 15)] } })
    |> fun s => { s with voices := s.voices.set 0 { phase := phase, freq := 0x2000#20, wave := .wave 2#4, vol := 15#4 } }

/-- V-SND, Render, rows 2 and 5 (the wrap). -/
theorem test_sndRender :
    (after (.sndRender 2#16) (voiced 0)).env.reply = .samples [21248#16, 21968#16] ∧
      (after (.sndRender 2#16) (voiced 0xFFFFF000)).env.reply = .samples [43568#16, 21248#16] ∧
      (after (.sndRender 2#16) (voiced 0xFFFFF000)).voices[0].phase = 0x3000 := by decide

/-- V-SND, Refill, row 2. -/
theorem test_audioRefill :
    let s := voiced 0
    let s := { s with env := { s.env with platform := { s.env.platform with audRoom := false } } }
    (after .audioRefill s).env.status = .audioDropped 44 ∧ (after .audioRefill s).voices[0].phase = 0x58000 := by decide

/-- HOST's state with a time and a button mask. -/
def pressed (now hb : Word) (q : CoinSeq) : State :=
  { host with coin := q, env := { host.env with platform := { host.env.platform with nowMs := now, hb := hb } } }

/-- V-CS, row 1 and the wrap of the corner rows. -/
theorem test_inputSample_coin :
    (after .inputSample (pressed 1000#32 0x40#32 CoinSeq.reset)).mio.in0 = 0xDF#8 ∧
      (after .inputSample (pressed 0x54#32 0x40#32 { cs := .coinAsserted, csT := 0xFFFFFFF0#32 })).coin.cs = .coinReleased := by
  decide

/-- V-TILT: the port composition of the buttons, and steps 3, 6 and 10. -/
theorem test_inputSample_tilt :
    (after .inputSample (pressed 0#32 0x14#32 CoinSeq.reset)).mio.in0 = 0xDD#8 ∧
      (tiltStep p0Orch 31 0 Tilt.reset).down = true ∧
      (tiltStep p0Orch 15 0 { Tilt.reset with down := true }).down = true ∧
      tiltStep p0Orch 31 0 { Tilt.reset with up := true } = { Tilt.reset with down := true } := by decide

/-- V-PWR, rows 1 and 3. -/
theorem test_powerEval :
    (after .powerEval host).power = { Power.reset p0 with silentCnt := 1, perf := .low, idleCnt := 1 } ∧
      (after .powerEval (host.setPower { Power.reset p0 with silentCnt := 2, perf := .low, idleCnt := 2 })).env.trace =
        bootCalls p0 ++ [.audGetMute, .audSetPower false, .dispSetBacklight 32#8] := by decide

/-- V-ORCH, VBLANK. -/
theorem test_vblank :
    (after .vblank ((host.setByte 0x1000 3#8).setIrqvec 0xCF#8)).env.trace = bootCalls p0 ++ [.cpuInterrupt 0xCF#8] ∧
      (after .vblank (host.setByte 0x1000 0xFE#8)).env.trace = bootCalls p0 := by decide

/-- HOST's state with a detector and a mode byte. -/
def moded (d : Detector) (m : Byte) : State := (host.setByte 0x0E00 m).setDet d

/-- V-ORCH, attract detector, rows 1 and 2. -/
theorem test_attract :
    (after .attract (moded { graceCnt := 2, prevMode := 0#8, played := false } 1#8)).orch.phase = .cutscene ∧
      (after .attract (moded { graceCnt := 2, prevMode := 1#8, played := false } 1#8)).orch.phase = .tickStart ∧
      (after .attract (moded Detector.reset 1#8)).det = { graceCnt := 1, prevMode := 1#8, played := false } := by decide

/-- HOST's state with a tick time and a time. -/
def timed (t0 now : BitVec 64) : State :=
  { host with orch := { host.orch with tickT0 := t0 }
              env := { host.env with platform := { host.env.platform with nowUs := now } } }

/-- V-ORCH, pacing, rows 2 and 3. -/
theorem test_pace :
    (after .pace (timed 1000000#64 1016499#64)).env.trace = bootCalls p0 ++ [.hostSleepUntil 1016500] ∧
      (after .pace (timed 1000000#64 1016500#64)).env.trace = bootCalls p0 := by decide

/-- R261, R282: when CUT fails, the credit reset is done in `CUTSCENE`, and the next step goes on to `PACE`. -/
theorem test_cutscene_end :
    let s := ((host.setByte 0x0E6B 9#8).setPhase .cutscene).setCutDue true
    let t := (s.setPlatform { Platform.idle with cut := .fail }).afterCutscene
    t.byteAt 0x0E6B = 0#8 ∧ t.orch.phase = .cutscene ∧ t.env.st = [.cutsceneFailed] ∧
      ∃ u, orchStep t = .next u ∧ u.orch.phase = .pace := ⟨by decide, rfl, rfl, _, rfl, rfl⟩

/-! ### The step -/

/-- The word is what step runs next. -/
theorem test_withFetchWord :
    (∃ t, step (host.withFetchWord 32 0x20805060) = .next t ∧ t.byteAt 0x1060 = 0x80#8 ∧ t.env.status = .ok) ∧
      (∃ t, step (host.withFetchWord 32 0x60010E00) = .next t ∧ t.byteAt 0x0E00 = 0x01#8) ∧
      (∃ t, step (host.withFetchWord 32 0x10008000) = .next t ∧ t.env.status = .ok ∧ t.cfg.map.hasAux = true) :=
  ⟨⟨_, rfl, rfl, rfl⟩, ⟨_, rfl, rfl⟩, ⟨_, rfl, rfl, rfl⟩⟩

/-! ### Witnesses: states and operands that meet the hypotheses of the statements -/

theorem cpu_ready : CpuReady cpu := ⟨rfl, rfl, rfl⟩

theorem host_inspect : InspectReady host :=
  ⟨rfl, rfl, by decide, by decide, by decide, by decide, by decide, by decide⟩

theorem host_int : IntReady host := ⟨rfl, .inl ⟨rfl, rfl⟩⟩

/-- ORCH within a tick. -/
def orch : State := (host.setPhase .attract).setAgent .orch

theorem orch_int : IntReady orch := ⟨rfl, .inr ⟨rfl, by decide, by decide, by decide⟩⟩

theorem host_tick : TickReady host := ⟨rfl, .inl rfl, rfl⟩

theorem host_memory : MemoryOk host := by show Memory.wf []; decide

theorem host_free : FreeRunning host := ⟨rfl, rfl, by decide⟩

theorem black_bands {s : State} (h0 : s.video.buf0 = blackBand s.cfg) (h1 : s.video.buf1 = blackBand s.cfg) : BandsOk s := by
  intro k
  have : s.band k = blackBand s.cfg := by unfold State.band; split <;> assumption
  rw [this]
  exact blackBand_shaped s.cfg

theorem host_bands : BandsOk host := black_bands rfl rfl

/-- A record with what a launch may get wrong. -/
def badCfg : State := { host with cfg := { p0 with geo := { p0Geo with bandCount := 0 } } }

/-- A launch with a table missing. -/
def unloaded : State := withTables host fun t => { t with pal := ⟨[], []⟩ }

/-- A table not built. -/
def unbuilt : State := { host with video := { host.video with palx := none } }

/-- A transfer in flight: ORCH has sent band 0. -/
def sending : State := host.sendBand 0

theorem test_witness_DecodeOfEncode :
    (Instr.rdRom 0x3FFF#16).wellFormed p0 = true ∧ (Instr.rdAux 0x9FFF#16).wellFormed p0ms = true ∧
      (Instr.wrSnd 0x505F#16 0#8).wellFormed p0 = true ∧ (Instr.outVec 0x1200#16 0#8).wellFormed p0 = true ∧
      (Instr.iwr 0x1FFF#16 0#8).wellFormed p0 = true ∧ (Instr.bandRender 1#8 35#8).wellFormed p0 = true := by decide

theorem test_witness_EncodeOfDecode : decode p0 0xFC000123#32 = some (.tilePass 1#8 35#8) := by decide

/-- Every clause at the ends of its range. -/
theorem test_witness_CpuMapsAtP0_reads :
    decodeRead p0 0x0000#16 = .rdRom 0x0000#16 ∧ decodeRead p0 0x3FFF#16 = .rdRom 0x3FFF#16 ∧
      decodeRead p0 0x4000#16 = .rdBlk 0x4000#16 ∧ decodeRead p0 0x4FFF#16 = .rdBlk 0x4FFF#16 ∧
      decodeRead p0 0x5000#16 = .rdIn0 ∧ decodeRead p0 0x5001#16 = .rdIox 0x5001#16 ∧ decodeRead p0 0x5040#16 = .rdIn1 ∧
      decodeRead p0 0x5080#16 = .rdDsw ∧ decodeRead p0 0x5FFF#16 = .rdIox 0x5FFF#16 ∧
      decodeRead p0 0x6000#16 = .rdNone 0x6000#16 ∧ decodeRead p0 0xFFFF#16 = .rdNone 0xFFFF#16 ∧
      decodeRead p0ms 0x8000#16 = .rdAux 0x8000#16 ∧ decodeRead p0ms 0x9FFF#16 = .rdAux 0x9FFF#16 := by decide

theorem test_witness_CpuMapsAtP0_writes :
    decodeWrite p0 0x4FF0#16 1#8 = .wrSpra 0x4FF0#16 1#8 ∧ decodeWrite p0 0xCFFF#16 1#8 = .wrSpra 0xCFFF#16 1#8 ∧
      decodeWrite p0 0x5060#16 1#8 = .wrSprp 0x5060#16 1#8 ∧ decodeWrite p0 0xD06F#16 1#8 = .wrSprp 0xD06F#16 1#8 ∧
      decodeWrite p0 0x5000#16 1#8 = .wrIe 0x5000#16 1#8 ∧ decodeWrite p0 0x5040#16 1#8 = .wrSnd 0x5040#16 1#8 ∧
      decodeWrite p0 0x505F#16 1#8 = .wrSnd 0x505F#16 1#8 ∧ decodeWrite p0 0x4FEF#16 1#8 = .wrBlk 0x4FEF#16 1#8 ∧
      decodeWrite p0 0x503F#16 1#8 = .wrBlk 0x503F#16 1#8 ∧ decodeWrite p0 0x5070#16 1#8 = .wrBlk 0x5070#16 1#8 ∧
      decodeWrite p0 0x5FFF#16 1#8 = .wrBlk 0x5FFF#16 1#8 ∧ decodeWrite p0 0x3FFF#16 1#8 = .wrNone 0x3FFF#16 1#8 ∧
      decodeWrite p0 0xE000#16 1#8 = .wrNone 0xE000#16 1#8 := by decide

theorem test_witness_StepRunsPresentedWord :
    decode host.cfg 0x60010E00#32 = some (.iwr 0x0E00#16 0x01#8) ∧
      (host.setInputs [.host 0x60010E00#32]).env.inputs = [.host 0x60010E00#32] ∧
      (cpu.setInputs [.cpu 0x60010E00#32]).env.inputs = [.cpu 0x60010E00#32] := by decide

theorem test_witness_StepWithoutWord :
    host.env.inputs = [] ∧ (host.setInputs [.turn]).env.inputs = [.turn] ∧
      (host.setInputs [.levels Platform.idle]).env.inputs = [.levels Platform.idle] := by decide

/-- An illegal word in a failed machine, before a reset, of a class closed to HOST, of one open to it, and of none. -/
theorem test_witness_StepRefusesIllegalWord :
    decode p0 0x10FF0000#32 = none ∧ decode p0 0x91000000#32 = none ∧ decode p0 0xA0000000#32 = none ∧
      (host.setInputs [.host 0x91000000#32]).env.inputs = [.host 0x91000000#32] ∧
      (host.failInit .mio).orch.fault ≠ none ∧ (host.setPhase .reset).orch.phase = .reset ∧
      allowed .bus .host host = false ∧ allowed .tick .host host = true ∧
      cmdClassOf (BitVec.extractLsb' 28 4 0xA0000000#32) = none := by decide

theorem test_witness_RefusalChangesNothing :
    exec (.rdRom 0#16) host = .next (host.refuse .badPhase) ∧ host.env.mark = false ∧
      (host.refuse .badPhase).env.mark = true ∧ host.env.status ≠ .refused .badPhase :=
  ⟨rfl, rfl, rfl, by decide⟩

/-- A failed machine; and every row of the table closed. -/
theorem test_witness_AccessByAgentAndPhase :
    (host.failInit .mio).orch.fault ≠ none ∧ Instr.tick ≠ .reset ∧ host.orch.fault = none ∧ cpu.orch.fault = none ∧
      (cmdClass .rdIn0 = .bus ∧ ¬CpuReady host) ∧ (cmdClass (.ird 0#16) = .inspect ∧ ¬InspectReady cpu) ∧
      (cmdClass .crst = .crst ∧ ¬CreditReady cpu) ∧ (cmdClass .reset = .reset ∧ cpu.env.agent ≠ .host) ∧
      (cmdClass .tick = .tick ∧ ¬TickReady cpu) ∧ (cmdClass .pace = .int ∧ ¬IntReady cpu) := by
  refine ⟨by decide, by decide, rfl, rfl, ⟨rfl, fun h => ?_⟩, ⟨rfl, fun h => ?_⟩, ⟨rfl, fun h => ?_⟩, ⟨rfl, by decide⟩,
    ⟨rfl, fun h => ?_⟩, ⟨rfl, fun h => ?_⟩⟩
  · exact absurd h.2.1 (by decide)
  · exact absurd h.2.1 (by decide)
  · rcases h with h | h
    · exact absurd h.2.1 (by decide)
    · exact absurd h.2.1 (by decide)
  · exact absurd h.2.2 (by decide)
  · rcases h.2 with h | h
    · exact absurd h.1 (by decide)
    · exact absurd h.1 (by decide)

theorem test_witness_OnlyNamedTransactionsWrite : ∃ t, exec (.iwr 0x1FFF#16 1#8) host = .next t := ⟨_, rfl⟩

theorem test_witness_CpuReadsReturn :
    CpuReady cpu ∧ CpuReady cpu.launchAux ∧ cpu.launchAux.cfg.map.hasAux = true := ⟨cpu_ready, cpu_ready, rfl⟩

theorem test_witness_CpuWritesStore : CpuReady cpu ∧ MemoryOk cpu := ⟨cpu_ready, host_memory⟩

/-- The two ends of the sound window. -/
theorem test_witness_CpuOtherWrites : CpuReady cpu ∧ cpu.mio.snd.length = cpu.cfg.map.sndSize ∧
    ∀ a : Half, a = 0x5040#16 ∨ a = 0xD05F#16 →
      cpu.cfg.map.sndBase ≤ (a &&& cpu.cfg.map.wrMask).toNat ∧
        (a &&& cpu.cfg.map.wrMask).toNat < cpu.cfg.map.sndBase + cpu.cfg.map.sndSize := by
  refine ⟨cpu_ready, rfl, ?_⟩
  rintro a (rfl | rfl) <;> decide

theorem test_witness_WritesAreMaskedReadsAreNot :
    host.cfg.map.wrMask = 0x7FFF#16 ∧ 0xC000 ≤ (0xDFFF#16).toNat ∧ (0xDFFF#16).toNat < 0xE000 ∧
      0x8000 ≤ (0x9FFF#16).toNat ∧ (0x9FFF#16).toNat < 0xA000 := by decide

/-- In `TICK_START`, at the end of a wait, and at the end of pacing. -/
theorem test_witness_InspectionAccess :
    InspectReady host ∧ MemoryOk host ∧ (0x1FFF#16).toNat < host.cfg.map.blockSize ∧
      host.cfg.map.blockSize ≤ (0x2000#16).toNat ∧ InspectReady (host.setPhase .frameWait) ∧
      InspectReady ((timed 1000000#64 1016500#64).setPhase .pace) := by
  refine ⟨host_inspect, host_memory, by decide, by decide, ⟨rfl, rfl, ?_⟩, ⟨rfl, rfl, ?_⟩⟩ <;> decide

theorem test_witness_CreditReset :
    CreditReady host ∧ MemoryOk host ∧ CreditReady orch ∧ MemoryOk orch :=
  ⟨.inl host_inspect, host_memory, .inr ⟨rfl, rfl, .inl rfl⟩, host_memory⟩

theorem p0_paramsOk : paramsOk p0 = true := by decide

theorem test_witness_ResetLeaves :
    host.env.agent = .host ∧ paramsOk host.cfg = true ∧ host.load.loaded host.cfg = true ∧
      allocFailure host.env.platform = none ∧ host.cfg.map.resetFill = .zero :=
  ⟨rfl, p0_paramsOk, by decide, by decide, rfl⟩

theorem test_witness_ResetFails :
    host.env.agent = .host ∧ paramsOk badCfg.cfg = false ∧ paramsOk unloaded.cfg = true ∧
      unloaded.load.loaded unloaded.cfg = false ∧ host.load.loaded host.cfg = true ∧
      ∀ sub : Subsystem, ∃ p : Platform, allocFailure p = some sub := by
  refine ⟨rfl, by decide, p0_paramsOk, by decide, by decide, fun sub => ?_⟩
  cases sub
  · exact ⟨{ Platform.idle with allocMio := false }, rfl⟩
  · exact ⟨{ Platform.idle with allocSpc := false }, rfl⟩
  · exact ⟨{ Platform.idle with allocWsg := false }, rfl⟩
  · exact ⟨{ Platform.idle with allocOrch := false }, rfl⟩

/-- The rows of each region at its ends. -/
theorem test_witness_TatBuild :
    IntReady host ∧ tasInRange host.cfg.geo = true ∧ (35 < host.cfg.geo.nrows ∧ 27 < host.cfg.geo.ncols) ∧
      1 < host.cfg.geo.topRows ∧ host.cfg.geo.nrows - host.cfg.geo.botRows ≤ 34 :=
  ⟨host_int, by decide, by decide, by decide, by decide⟩

theorem test_witness_PalBuild :
    IntReady host ∧ host.load.pal.hasShape [host.cfg.ngroups, host.cfg.spr.groupLen] = true ∧
      IntReady unloaded ∧ unloaded.load.pal.hasShape [unloaded.cfg.ngroups, unloaded.cfg.spr.groupLen] = false ∧
      host.cfg.spr.palXform = .swap16 ∧
      ({ host with cfg := { p0 with spr := { p0Spr with palXform := .identity } } } : State).cfg.spr.palXform = .identity :=
  ⟨host_int, by decide, host_int, by decide, rfl, rfl⟩

theorem test_witness_VisibleMeetsScreen :
    0 < p0.spr.sprW ∧ 0 < p0.spr.sprH ∧ 0 < p0.width ∧ 0 < p0.height ∧ visible p0 (-15) 272 = true ∧
      visible p0 (-16) 272 = false ∧ visible p0 223 17 = true ∧ visible p0 224 17 = false := by decide

theorem test_witness_SpritePreparation : IntReady host ∧ IntReady orch ∧
    (-32768 ≤ p0.spr.sprXBias - (0xFF#8).toNat ∧ p0.spr.sprXBias - (0x00#8).toNat ≤ 32767) ∧
    -32768 ≤ p0.spr.sprYBias - (0xFF#8).toNat ∧ p0.spr.sprYBias - (0x00#8).toNat ≤ 32767 :=
  ⟨host_int, orch_int, by decide, by decide⟩

theorem test_witness_band_operations :
    IntReady host ∧ BandsOk host ∧ host.cfg.geo.tileH = host.cfg.geo.bandLines ∧ (1#8).toNat ≤ 1 ∧
      (35#8).toNat < host.cfg.nbands ∧ host.notBuilt = false ∧ host.video.palx.isSome = true ∧
      host.owner (1#8).toNat ≠ .inflight :=
  ⟨host_int, host_bands, rfl, by decide, by decide, by decide, by decide, by decide⟩

/-- A buffer and a band that do not exist; a table not built; a buffer in flight. -/
theorem test_witness_BandRefusals :
    1 < (2#8).toNat ∧ host.cfg.nbands ≤ (36#8).toNat ∧ IntReady unbuilt ∧ unbuilt.notBuilt = true ∧
      unbuilt.video.palx.isNone = true ∧ IntReady (sending.setAgent .orch) ∧
      (sending.setAgent .orch).owner (0#8).toNat = .inflight ∧ (sending.setAgent .orch).notBuilt = false :=
  ⟨by decide, by decide, host_int, by decide, by decide, ⟨rfl, .inr ⟨rfl, by decide, by decide, by decide⟩⟩, by decide,
    by decide⟩

/-- A sprite at `x`, `y`. -/
def spriteAt (x y : Int) : Sprite := { x := toI16 x, y := toI16 y, code := 5#6, color := 2#8, flip := 0#2 }

theorem test_witness_SpriteMask :
    -16 < (220 : Int) ∧ (220 : Int) < (224 : Nat) ∧ host.cfg.spr.sprW = 16 ∧ -16 < (spriteAt 220 16).x.toInt ∧
      (spriteAt 220 16).x.toInt < host.cfg.width ∧ ((223 : Nat) : Int) = (spriteAt 220 16).x.toInt + (3 : Nat) ∧
      (7 : Nat) < host.cfg.geo.bandLines ∧ (0 : Int) ≤ (host.cfg.geo.bandLines * 2 + 7 : Nat) - (spriteAt 220 16).y.toInt ∧
      ((host.cfg.geo.bandLines * 2 + 7 : Nat) : Int) - (spriteAt 220 16).y.toInt < host.cfg.spr.sprH := by decide

theorem test_witness_SpriteLines :
    0 < p0.spr.sprH ∧ 0 < p0.geo.bandLines ∧ overlapsBand p0 (spriteAt 0 17) 2 = true ∧
      overlapsBand p0 (spriteAt 0 17) 4 = true := by decide

/-- V-SPR, drawing 1: the sprite has a pixel there. -/
theorem test_witness_LowestSlotWins :
    let s := withTables host fun t => { t with sg := { t.sg with cells := [(5 * 16, 0x55555555#32)] } }
    let s := { s with video := { s.video with asl := [spriteAt 0 0, spriteAt 220 16] } }
    s.video.asl = [spriteAt 0 0] ++ [spriteAt 220 16] ∧ 0 < s.cfg.geo.bandLines ∧ 223 < s.cfg.width ∧
      s.spritePixel (spriteAt 220 16) 2 0 223 = some (s.palxAt 2 1) := by decide

theorem test_witness_FrameRenderBegins :
    IntReady host ∧ unbuilt.notBuilt = true ∧ IntReady unbuilt ∧ host.notBuilt = false ∧ host.video.dispBusy = false ∧
      IntReady (sending.setAgent .orch) ∧ (sending.setAgent .orch).video.dispBusy = true ∧
      (sending.setAgent .orch).notBuilt = false :=
  ⟨host_int, by decide, host_int, by decide, rfl, ⟨rfl, .inr ⟨rfl, by decide, by decide, by decide⟩⟩, rfl, by decide⟩

theorem test_witness_FrameRunsAsWritten :
    IntReady host ∧ host.env.agent = .host ∧ FreeRunning host ∧ host.notBuilt = false ∧ host.video.dispBusy = false ∧
      1 ≤ host.cfg.geo.bandCount := ⟨host_int, rfl, host_free, by decide, rfl, by decide⟩

theorem test_witness_FrameCalls : 1 ≤ host.cfg.geo.bandCount ∧ 1 ≤ host.cfg.wsg.audioRefillBands ∧
    7 < host.cfg.geo.bandLines ∧ 223 < host.cfg.width := by decide

/-- Voice 0 silent, voice 0 sounding. -/
theorem test_witness_SoundParse :
    IntReady host ∧ host.cfg.wsg = p0Wsg ∧ (host.sndAt 0x15).toNat % 16 = 0 ∧
      ((host.setSnd 0x15 0xF#8).sndAt 0x15).toNat % 16 ≠ 0 := ⟨host_int, rfl, by decide, by decide⟩

theorem host_voices : VoicesOk host := by
  intro v
  match v with
  | 0 => exact ⟨by decide, fun _ => ⟨rfl, rfl⟩⟩
  | 1 => exact ⟨by decide, fun _ => ⟨rfl, rfl⟩⟩
  | 2 => exact ⟨by decide, fun _ => ⟨rfl, rfl⟩⟩

/-- And a sum in the `u16` range: silence. -/
theorem test_witness_SoundRender :
    IntReady host ∧ VoicesOk host ∧ 3 < (4#16).toNat ∧ 0 ≤ mixOut p0Wsg 0 ∧ mixOut p0Wsg 0 ≤ 65535 :=
  ⟨host_int, host_voices, by decide, by decide, by decide⟩

theorem test_witness_MixStaysInRange :
    p0.wsg = p0Wsg ∧ Voice.reset.wave = .silent ∧ ∀ v : Fin 3, (host.voices[v]).wave = .silent := by
  refine ⟨rfl, rfl, fun v => ?_⟩
  match v with
  | 0 => rfl
  | 1 => rfl
  | 2 => rfl

/-- V-SND: 0xFFFFF000 in 32 bits and 0x3F000 in 18. -/
theorem test_witness_SamplesDoNotDependOnPhaseWidth :
    p0.wsg.phaseShift = 13 ∧ p0.wsg.idxMask = 0x1F ∧ 18 ≤ p0.wsg.phaseW ∧
      (voiced 0x3F000).voices[0] = { (voiced 0xFFFFF000).voices[0] with phase := 0x3F000 } ∧
      0x3F000 % 2 ^ 18 = 0xFFFFF000 % 2 ^ 18 := by decide

theorem test_witness_AudioRefill :
    IntReady host ∧ host.env.platform.audRoom = true ∧ IntReady orch ∧ orch.env.agent = .orch :=
  ⟨host_int, rfl, orch_int, rfl⟩

theorem test_witness_CoinSequencer :
    ({ cs := .coinAsserted, csT := 1000#32 } : CoinSeq).cs ≠ .idle ∧
      p0Orch.coinHoldMs ≤ (1100 + (2 ^ 32 - (1000#32).toNat)) % 2 ^ 32 ∧
      (1099 + (2 ^ 32 - (1000#32).toNat)) % 2 ^ 32 < p0Orch.coinHoldMs ∧
      p0Orch.startDelayMs ≤ (1600 + (2 ^ 32 - (1100#32).toNat)) % 2 ^ 32 := by decide

/-- The thresholds themselves: 30 sets nothing, 15 clears nothing. -/
theorem test_witness_Tilt :
    0 ≤ p0Orch.tiltOff ∧ p0Orch.tiltOff < p0Orch.tiltOn ∧ ¬(Tilt.reset.up = true ∧ Tilt.reset.down = true) ∧
      ¬(Tilt.reset.left = true ∧ Tilt.reset.right = true) ∧ p0Orch.tiltPitchSign * 30 ≤ p0Orch.tiltOn ∧
      p0Orch.tiltOff ≤ p0Orch.tiltPitchSign * 15 ∧ p0Orch.tiltOn < p0Orch.tiltPitchSign * 31 ∧
      p0Orch.tiltPitchSign * 14 < p0Orch.tiltOff := by decide

/-- Awake, asleep at the limit and below it, playing and not. -/
theorem test_witness_PowerEval :
    IntReady host ∧ (voiced 0).voices[0].vol ≠ 0#4 ∧ host.voices[0].vol = 0#4 ∧
      min p0Orch.silenceFrames (2 + 1) = p0Orch.silenceFrames ∧ min p0Orch.silenceFrames (0 + 1) ≠ p0Orch.silenceFrames ∧
      p0Orch.playThreshold.toNat ≤ ((host.setByte 0x0E00 3#8).byteAt p0Orch.modeOff).toNat ∧
      ¬p0Orch.playThreshold.toNat ≤ ((host.setByte 0x0E00 2#8).byteAt p0Orch.modeOff).toNat :=
  ⟨host_int, by decide, by decide, by decide, by decide, by decide, by decide⟩

/-- In the grace period, after it, and firing. -/
theorem test_witness_AttractDetector :
    IntReady (moded Detector.reset 1#8) ∧ Detector.reset.graceCnt < p0Orch.graceTicks ∧
      (moded { graceCnt := 2, prevMode := 0#8, played := false } 1#8).stepDetector.orch.cutDue = true ∧
      (moded { graceCnt := 2, prevMode := 1#8, played := false } 1#8).stepDetector.orch.cutDue = false :=
  ⟨host_int, by decide, by decide, by decide⟩

theorem test_witness_DetectorFiresOncePerCycle :
    p0Orch.playValue ∉ [((1#8 : Byte), (0#8 : Byte)), (2#8, 0#8)].map Prod.fst ∧ Detector.reset.prevMode ≠ 1#8 ∧
      Detector.reset.played = false := by decide

/-- A cutscene, due and over; CUT plays, and has answered. -/
theorem test_witness_CutsceneEnds :
    (host.setPhase .cutscene).orch.phase = .cutscene ∧ MemoryOk (host.setPhase .cutscene) ∧
      ((host.setPhase .cutscene).setCutDue true).orch.cutDue = true ∧ (host.setPhase .cutscene).orch.cutDue = false ∧
      host.env.platform.cut ≠ .playing ∧ ({ Platform.idle with cut := .playing } : Platform).cut = .playing ∧
      host.orch.fault = none := ⟨rfl, host_memory, rfl, rfl, by decide, rfl, rfl⟩

theorem test_witness_CpuExecBegins : IntReady host ∧ IntReady orch := ⟨host_int, orch_int⟩

/-- V-ORCH, pacing, rows 2 and 3; and ORCH in `PACE`. -/
theorem test_witness_Pacing :
    IntReady (timed 1000000#64 1016499#64) ∧ (1016499#64).toNat < (1000000#64).toNat + p0Orch.tickPeriodUs ∧
      (1000000#64).toNat + p0Orch.tickPeriodUs ≤ (1016500#64).toNat ∧
      IntReady (((timed 1000000#64 1016500#64).setPhase .pace).setAgent .orch) :=
  ⟨host_int, by decide, by decide, ⟨rfl, .inr ⟨rfl, by decide, by decide, by decide⟩⟩⟩

theorem test_witness_TickBegins : TickReady host ∧ host.notBuilt = false ∧ TickReady unbuilt ∧ unbuilt.notBuilt = true :=
  ⟨host_tick, by decide, host_tick, by decide⟩

theorem test_witness_PhaseTransitions :
    ∀ p : Phase, (host.setPhase p).orch.fault = none ∧ (host.setPhase p).notBuilt = false ∧
      ∃ t, orchStep (host.setPhase p) = .next t := by
  intro p
  refine ⟨rfl, by cases p <;> decide, ?_⟩
  cases p <;> exact ⟨_, rfl⟩

/-- The clauses of the detector, the cutscene and pacing. -/
theorem test_witness_PhaseTransitions_clauses :
    let s := moded { graceCnt := 2, prevMode := 0#8, played := false } 1#8
    (s.cfg.orch.graceTicks ≤ s.det.graceCnt ∧ s.byteAt s.cfg.orch.modeOff = s.cfg.orch.attractValue ∧
      s.det.prevMode ≠ s.cfg.orch.attractValue ∧ s.det.played = false ∧
      s.cfg.orch.state2Gate.getLsbD (s.byteAt s.cfg.orch.state2Off).toNat = true) ∧
    ¬host.cfg.orch.graceTicks ≤ host.det.graceCnt ∧ ({ Platform.idle with cut := .playing } : Platform).cut = .playing ∧
    (timed 1000000#64 1016499#64).early = true ∧ (timed 1000000#64 1016500#64).early = false ∧
    (s.setCutDue true).orch.cutDue = true ∧ s.orch.cutDue = false := by decide

theorem test_witness_TickRunsAsWritten :
    TickReady host ∧ FreeRunning host ∧ host.notBuilt = false ∧ host.video.dispBusy = false ∧
      1 ≤ host.cfg.geo.bandCount := ⟨host_tick, host_free, by decide, rfl, by decide⟩

theorem sending_display : DisplayOk sending :=
  .inr ⟨by decide, by decide, by decide, fun _ => by decide⟩

/-- A step from a state with a band in flight that keeps what every step keeps. -/
theorem test_witness_invariants :
    (∃ t, step sending = .next t ∧ t.env.draws = sending.env.draws ∧ t.owner 0 = .inflight) ∧ DisplayOk sending ∧ sending.owner 0 = .inflight ∧
      1 ≤ sending.cfg.geo.bandCount ∧ BuiltOk sending ∧ FaultOk sending ∧ BandsOk sending ∧ VoicesOk sending :=
  ⟨⟨_, rfl, rfl, rfl⟩, sending_display, by decide, by decide, .inr (.inr (by decide)),
    ⟨fun h => absurd h (by decide), fun h => absurd h (by decide)⟩, black_bands rfl rfl, host_voices⟩

end Sys2Proof.Tests
end

section
/-! What every operation of the block keeps of the ranges of 10_state.md: `RangesKept s t` says that each of the seven range
invariants that holds in `s` holds in `t`, and that the launch is the same. It is reflexive and transitive, so a step keeps the
ranges because each operation it is made of does. -/

namespace Sys2Proof.Machine

open Sys2Proof

variable {s t u : State}

/-! ### Each invariant reads a few fields only -/

theorem SoundOk.congr (h : SoundOk s) (hc : t.cfg = s.cfg) (hsnd : t.mio.snd = s.mio.snd) : SoundOk t := by
  simpa only [SoundOk, State.sndAt, hc, hsnd] using h

theorem TiltOk.congr (h : TiltOk s) (ht : t.tilt = s.tilt) : TiltOk t := by
  simpa only [TiltOk, ht] using h

theorem CountersOk.congr (h : CountersOk s) (hc : t.cfg = s.cfg) (hp : t.power = s.power) (hd : t.det = s.det) :
    CountersOk t := by
  simpa only [CountersOk, hc, hp, hd] using h

theorem SpritesOk.congr (h : SpritesOk s) (hc : t.cfg = s.cfg) (ha : t.video.asl = s.video.asl) : SpritesOk t := by
  simpa only [SpritesOk, hc, ha] using h

theorem VoicesOk.congr (h : VoicesOk s) (hc : t.cfg = s.cfg) (hv : t.voices = s.voices) : VoicesOk t := by
  simpa only [VoicesOk, hc, hv] using h

theorem BandsOk.congr (h : BandsOk s) (hc : t.cfg = s.cfg) (h0 : t.video.buf0 = s.video.buf0)
    (h1 : t.video.buf1 = s.video.buf1) : BandsOk t := by
  simpa only [BandsOk, State.band, hc, h0, h1] using h

/-! ### The relation -/

/-- Every range invariant that holds in `s` holds in `t`, and the launch is the same. The default of each field is its proof for an
operation that leaves the state the invariant reads as it is. -/
structure RangesKept (s t : State) : Prop where
  cfg : t.cfg = s.cfg := by simp
  load : t.load = s.load := by simp
  memory : MemoryOk s → MemoryOk t := by exact fun h => h.congr (by simp)
  sound : SoundOk s → SoundOk t := by exact fun h => h.congr (by simp) (by simp)
  tilt : TiltOk s → TiltOk t := by exact fun h => h.congr (by simp)
  counters : CountersOk s → CountersOk t := by exact fun h => h.congr (by simp) (by simp) (by simp)
  sprites : SpritesOk s → SpritesOk t := by exact fun h => h.congr (by simp) (by simp)
  voices : VoicesOk s → VoicesOk t := by exact fun h => h.congr (by simp) (by simp)
  bands : BandsOk s → BandsOk t := by exact fun h => h.congr (by simp) (by simp) (by simp)

theorem RangesKept.refl (s : State) : RangesKept s s := {}

theorem RangesKept.trans (h : RangesKept s t) (h' : RangesKept t u) : RangesKept s u where
  cfg := h'.cfg.trans h.cfg
  load := h'.load.trans h.load
  memory := h'.memory ∘ h.memory
  sound := h'.sound ∘ h.sound
  tilt := h'.tilt ∘ h.tilt
  counters := h'.counters ∘ h.counters
  sprites := h'.sprites ∘ h.sprites
  voices := h'.voices ∘ h.voices
  bands := h'.bands ∘ h.bands

/-! ### The block and the sound registers -/

theorem setByte_rangesKept (s : State) (off : Nat) (v : Byte) : RangesKept s (s.setByte off v) where
  memory h := s.setByte_memoryOk h off v

theorem creditReset_rangesKept (s : State) : RangesKept s s.creditReset where
  memory := s.creditReset_memoryOk

theorem and_0F_lt (v : Byte) : (v &&& 0x0F#8).toNat < 16 := by
  rw [BitVec.toNat_and]
  exact Nat.and_lt_two_pow (n := 4) _ (by decide)

/-- A nibble written to a register, existing or not (log 19), leaves every register below 16. -/
theorem setSnd_soundOk (h : SoundOk s) (i : Nat) (v : Byte) : SoundOk (s.setSnd i (v &&& 0x0F#8)) := by
  obtain ⟨hlen, hlt⟩ := h
  refine ⟨by simpa using hlen, fun j => ?_⟩
  by_cases hi : i < s.mio.snd.length
  · rw [State.sndAt_setSnd _ _ _ _ hi]
    split
    · exact and_0F_lt v
    · exact hlt j
  · simpa [State.sndAt, List.set_eq_of_length_le (Nat.le_of_not_lt hi)] using hlt j

theorem setSnd_rangesKept (s : State) (i : Nat) (v : Byte) : RangesKept s (s.setSnd i (v &&& 0x0F#8)) where
  sound h := setSnd_soundOk h i v

/-! ### The synthesizer -/

/-- A parse keeps the phase, and a voice it makes silent gets frequency and volume 0 (44_wavetable_synth.md R234). -/
theorem parseVoice_ok (s : State) (v : Fin 3) : (s.parseVoice v).phase = (s.voices[v]).phase ∧
    ((s.parseVoice v).wave = .silent → (s.parseVoice v).freq = 0#20 ∧ (s.parseVoice v).vol = 0#4) := by
  unfold State.parseVoice
  dsimp only
  split <;> simp

theorem parseSound_voices_get (s : State) (v : Fin 3) : s.parseSound.voices[v] = s.parseVoice v := by
  match v with
  | 0 => rfl
  | 1 => rfl
  | 2 => rfl

theorem parseSound_rangesKept (s : State) : RangesKept s s.parseSound where
  voices h v := by
    obtain ⟨hphase, hsilent⟩ := parseVoice_ok s v
    rw [parseSound_voices_get, hphase]
    exact ⟨(h v).1, hsilent⟩

/-- Each sample advances a phase modulo `2 ^ PHASE_W` and changes nothing else of a voice (R235). -/
theorem sampleVoices_voicesOk {c : SynthParams} {vs : Vector Voice 3}
    (h : ∀ v : Fin 3, (vs[v]).wave = .silent → (vs[v]).freq = 0#20 ∧ (vs[v]).vol = 0#4) (v : Fin 3) :
    ((sampleVoices c vs)[v]).phase < 2 ^ c.phaseW ∧ (((sampleVoices c vs)[v]).wave = .silent →
      ((sampleVoices c vs)[v]).freq = 0#20 ∧ ((sampleVoices c vs)[v]).vol = 0#4) := by
  rw [sampleVoices_get]
  exact ⟨Nat.mod_lt _ (Nat.two_pow_pos _), h v⟩

theorem advanceVoices_succ (s : State) (n : Nat) :
    s.advanceVoices (n + 1) = ({ s with voices := sampleVoices s.cfg.wsg s.voices } : State).advanceVoices n := rfl

theorem advanceVoices_voicesOk (h : VoicesOk s) (n : Nat) : VoicesOk (s.advanceVoices n) := by
  induction n generalizing s with
  | zero => exact h
  | succ n ih =>
    rw [advanceVoices_succ]
    exact ih (sampleVoices_voicesOk fun v => (h v).2)

theorem advanceVoices_rangesKept (s : State) (n : Nat) : RangesKept s (s.advanceVoices n) where
  voices h := advanceVoices_voicesOk h n

theorem refillAudio_rangesKept (s : State) : RangesKept s s.refillAudio where
  voices h := (advanceVoices_voicesOk h s.cfg.wsg.audioSlice).congr (by simp) (by simp)

/-! ### The renderer -/

theorem BandsOk.shaped (h : BandsOk s) (k : Nat) : shaped s.cfg.geo.bandLines s.cfg.width (s.band k) := h k

theorem setBand_bandsOk (h : BandsOk s) (k : Nat) {b : Band} (hb : shaped s.cfg.geo.bandLines s.cfg.width b) :
    BandsOk (s.setBand k b) := by
  intro j
  rw [State.setBand_cfg]
  by_cases hkj : k = 0 ↔ j = 0
  · have hj : (s.setBand k b).band j = (s.setBand k b).band k := by simp only [State.band, hkj]
    rw [hj, State.band_setBand_same]
    exact hb
  · rw [State.band_setBand_other _ _ _ _ hkj]
    exact h j

theorem setBand_rangesKept (s : State) (k : Nat) (b : Band) (hb : shaped s.cfg.geo.bandLines s.cfg.width b) :
    RangesKept s (s.setBand k b) where
  bands h := setBand_bandsOk h k hb

theorem prepSprites_rangesKept (s : State) : RangesKept s s.prepSprites where
  sprites _ := prepSprites_spritesOk s

theorem drawTiles_rangesKept (s : State) (k b : Nat) : RangesKept s (s.drawTiles k b) where
  bands h := setBand_bandsOk h k (drawOver_shaped _ (h.shaped k))

theorem drawSprites_rangesKept (s : State) (k b : Nat) : RangesKept s (s.drawSprites k b) where
  bands h := setBand_bandsOk h k (foldl_drawOver_shaped _ _ _ (h.shaped k))

theorem renderBand_rangesKept (s : State) (k b : Nat) : RangesKept s (s.renderBand k b) := by
  have howned : RangesKept s (s.setOwner k .render) := {}
  have hblack : RangesKept (s.setOwner k .render) ((s.setOwner k .render).setBand k (blackBand s.cfg)) :=
    setBand_rangesKept _ _ _ (by simpa using blackBand_shaped s.cfg)
  exact (howned.trans hblack).trans ((drawTiles_rangesKept _ k b).trans (drawSprites_rangesKept _ k b))

theorem drew_rangesKept (s : State) : RangesKept s s.drew := {}

theorem waitReturned_rangesKept (s : State) (j : Nat) : RangesKept s (s.waitReturned j) := by
  have hfreed : RangesKept s ((s.setOwner (j % 2) .free).setBusy false) := {}
  have hdrawn := setBand_rangesKept ((s.setOwner (j % 2) .free).setBusy false) (j % 2)
    (drawnBand s.cfg s.env.draws (j % 2)) (by simpa using drawnBand_shaped s.cfg _ _)
  exact (hfreed.trans hdrawn).trans (drew_rangesKept _)

theorem setBandJ_rangesKept (s : State) (j : Nat) : RangesKept s (s.setBandJ j) := {}

theorem beginBand_rangesKept (s : State) (j : Nat) : RangesKept s (s.beginBand j) :=
  RangesKept.trans {} (renderBand_rangesKept ((s.setBandJ j).setPhase .bandRender) _ _)

theorem sendBand_rangesKept (s : State) (j : Nat) : RangesKept s (s.sendBand j) := {}

theorem enterWait_rangesKept (s : State) (p : Phase) : RangesKept s (s.enterWait p) := {}

theorem nextBand_rangesKept (s : State) : RangesKept s s.nextBand := by
  unfold State.nextBand
  split
  · exact beginBand_rangesKept ..
  · exact enterWait_rangesKept ..

theorem afterRender_rangesKept (s : State) : RangesKept s s.afterRender := by
  unfold State.afterRender
  split
  · exact enterWait_rangesKept ..
  · exact sendBand_rangesKept ..

theorem afterWait_rangesKept (s : State) : RangesKept s s.afterWait :=
  (waitReturned_rangesKept s _).trans (sendBand_rangesKept ..)

theorem afterSend_rangesKept (s : State) : RangesKept s s.afterSend := by
  unfold State.afterSend
  split
  · exact RangesKept.trans {} (refillAudio_rangesKept (s.setPhase .audioRefill))
  · exact nextBand_rangesKept s

theorem frameDone_rangesKept (s : State) : RangesKept s s.frameDone :=
  (waitReturned_rangesKept s _).trans (setBandJ_rangesKept ..)

/-! ### Input, power and the detector -/

/-- The exclusion lines of `TILT_STEP` leave at most one latch of an axis set, whatever the latches were (46_input_power.md R305,
R307). -/
theorem tiltAxis_exclusive (c : OrchParams) (m : Int) (toward away : Bool) :
    ¬((tiltAxis c m toward away).1 = true ∧ (tiltAxis c m toward away).2 = true) := by
  unfold tiltAxis
  cases tiltDir c m toward <;> simp

theorem sampleInput_rangesKept (s : State) : RangesKept s s.sampleInput where
  tilt _ := ⟨fun h => tiltAxis_exclusive _ _ _ _ h.symm, fun h => tiltAxis_exclusive _ _ _ _ h.symm⟩

section Power

/-! The three sub-steps of `POWER_EVAL` write a counter only as 0 or as the minimum of its limit and one more. -/

theorem setSilent_countersOk (h : CountersOk s) {n : Nat} (hn : n ≤ s.cfg.orch.silenceFrames) : CountersOk (s.setSilent n) :=
  ⟨hn, h.2⟩

theorem setIdle_countersOk (h : CountersOk s) {n : Nat} (hn : n ≤ s.cfg.orch.idleFrames) : CountersOk (s.setIdle n) :=
  ⟨h.1, hn, h.2.2⟩

theorem ampOn_countersOk (h : CountersOk s) : CountersOk s.ampOn := by
  unfold State.ampOn
  split <;> exact h

theorem ampOff_countersOk (h : CountersOk s) : CountersOk s.ampOff := by
  unfold State.ampOff
  split <;> exact h

theorem setBacklight_countersOk (h : CountersOk s) (level : Byte) : CountersOk (s.setBacklight level) := by
  unfold State.setBacklight
  split <;> exact h

theorem ampStep_countersOk (h : CountersOk s) (quiet mute : Bool) : CountersOk (s.ampStep quiet mute) := by
  have hzero := setSilent_countersOk h (Nat.zero_le _)
  have hmin := setSilent_countersOk h (Nat.min_le_left s.cfg.orch.silenceFrames (s.power.silentCnt + 1))
  unfold State.ampStep
  split
  · exact ampOn_countersOk hzero
  · split
    · exact ampOn_countersOk hzero
    · dsimp only
      split
      · exact ampOff_countersOk hmin
      · exact hmin

theorem perfStep_countersOk (h : CountersOk s) (playing : Bool) : CountersOk (s.perfStep playing) := by
  unfold State.perfStep
  dsimp only
  generalize (if playing = true then Perf.high else Perf.low) = m
  split <;> exact h

theorem blStep_countersOk (h : CountersOk s) (playing : Bool) : CountersOk (s.blStep playing) := by
  have hmin := setIdle_countersOk h (Nat.min_le_left s.cfg.orch.idleFrames (s.power.idleCnt + 1))
  unfold State.blStep
  split
  · exact setBacklight_countersOk (setIdle_countersOk h (Nat.zero_le _)) _
  · dsimp only
    split
    · exact setBacklight_countersOk hmin _
    · exact hmin

end Power

theorem evalPower_rangesKept (s : State) : RangesKept s s.evalPower where
  counters h := blStep_countersOk (perfStep_countersOk (ampStep_countersOk (s := s.emit .audGetMute) h _ _) _) _

/-- In the grace period the counter goes up by one, below its limit; after it the counter stays (45_frame_orchestrator.md
R280). -/
theorem stepDetector_countersOk (h : CountersOk s) : CountersOk s.stepDetector := by
  obtain ⟨hsilent, hidle, hgrace⟩ := h
  unfold State.stepDetector
  dsimp only
  split
  · exact ⟨hsilent, hidle, ‹_›⟩
  · exact ⟨hsilent, hidle, hgrace⟩

theorem stepDetector_rangesKept (s : State) : RangesKept s s.stepDetector where
  counters := stepDetector_countersOk

/-! ### Reset -/

/-- What a reset leaves in the sound registers is in range (10_state.md R35, R65). -/
theorem resetMio_snd (c : Params) (n : Nat) :
    (resetMio c n).snd.length = c.map.sndSize ∧ ∀ i, ((resetMio c n).snd.getD i 0#8).toNat < 16 := by
  unfold resetMio
  split
  · exact ⟨by simp [Mio.reset], fun i => by simp [Mio.reset]⟩
  · refine ⟨by simp, fun i => ?_⟩
    simp only [List.getD_eq_getElem?_getD, List.getElem?_map]
    cases (List.range c.map.sndSize)[i]? with
    | none => simp
    | some j => exact and_0F_lt _

/-- The state a `RESET` draws meets every range, whatever the state before it (10_state.md R65). -/
theorem resetBlock_rangesKept (s : State) : RangesKept s s.resetBlock where
  cfg := rfl
  load := rfl
  memory _ := resetMio_wf ..
  sound _ := resetMio_snd ..
  tilt _ := ⟨by simp [State.resetBlock, Tilt.reset], by simp [State.resetBlock, Tilt.reset]⟩
  counters _ := ⟨Nat.zero_le _, Nat.zero_le _, Nat.zero_le _⟩
  sprites _ := ⟨Nat.zero_le _, fun d hd => by cases hd⟩
  voices _ v := by simp [State.resetBlock, Voice.reset]
  bands _ k := by
    unfold State.band
    split
    · exact drawnBand_shaped ..
    · exact drawnBand_shaped ..

/-- An operation that changes nothing but the orchestrator's state and the run's outputs. -/
theorem RangesKept.of_orch_env (s : State) (o : Orch) (e : Env) : RangesKept s { s with orch := o, env := e } where
  cfg := rfl
  load := rfl
  memory := id
  sound := id
  tilt := id
  counters := id
  sprites := id
  voices := id
  bands := id

theorem bootUp_rangesKept (s : State) : RangesKept s ((s.buildTat.buildPal.boot).setPhase .tickStart).done :=
  RangesKept.trans (t := s.buildTat.buildPal) {} (RangesKept.of_orch_env ..)

theorem reboot_rangesKept (s : State) : RangesKept s s.reboot := by
  unfold State.reboot
  split
  · exact RangesKept.of_orch_env ..
  · exact (resetBlock_rangesKept s).trans (bootUp_rangesKept _)

/-! ### Every transaction -/

theorem beginOp_rangesKept (s : State) : RangesKept s s.beginOp := {}

theorem finishOp_rangesKept (s : State) : RangesKept s s.finishOp := {}

theorem beginLong_rangesKept (s : State) : RangesKept s s.beginLong := {}

theorem answer_rangesKept (s : State) (b : Byte) : RangesKept s (s.answer b) := {}

theorem done_rangesKept (s : State) : RangesKept s s.done := {}

theorem refuse_rangesKept (s : State) (code : RefusalCode) : RangesKept s (s.refuse code) := {}

theorem enterPace_rangesKept (s : State) : RangesKept s s.enterPace := {}

/-- An operation that is complete in one step keeps what its work keeps. -/
theorem whole_rangesKept {f : State → State} (hf : ∀ s, RangesKept s (f s)) (s : State) : RangesKept s (whole f s) :=
  ((beginOp_rangesKept s).trans (hf _)).trans (finishOp_rangesKept _)

theorem store_rangesKept (s : State) (off : Nat) (v : Byte) : RangesKept s (s.setByte off v).done :=
  (setByte_rangesKept s off v).trans (done_rangesKept _)

theorem effectOf_rangesKept (i : Instr) (s : State) : RangesKept s (effectOf i s) := by
  cases i with
  | rdRom | rdBlk | rdIn0 | rdIn1 | rdDsw | rdIox | rdAux | rdNone | inPort | ird => exact answer_rangesKept ..
  | wrSpra | wrSprp | wrIe | wrBlk | iwr => exact store_rangesKept ..
  | wrSnd => exact (setSnd_rangesKept ..).trans (done_rangesKept _)
  | wrNone | outNone => exact done_rangesKept s
  | outVec _ v => exact RangesKept.trans (t := s.setIrqvec v) {} (done_rangesKept _)
  | crst => exact (creditReset_rangesKept s).trans (done_rangesKept _)
  | reset => exact reboot_rangesKept s
  | tick => exact RangesKept.of_orch_env ..
  | tatBuild => exact whole_rangesKept (f := State.buildTat) (fun _ => {}) s
  | palBuild => exact whole_rangesKept (f := State.buildPal) (fun _ => {}) s
  | sndParse => exact whole_rangesKept parseSound_rangesKept s
  | sndRender n =>
    exact whole_rangesKept (fun s => (advanceVoices_rangesKept s n.toNat).trans (RangesKept.of_orch_env ..)) s
  | audioRefill => exact whole_rangesKept refillAudio_rangesKept s
  | sprPrep => exact whole_rangesKept prepSprites_rangesKept s
  | bandRender => exact whole_rangesKept (fun s => renderBand_rangesKept s _ _) s
  | tilePass => exact whole_rangesKept (fun s => drawTiles_rangesKept s _ _) s
  | spritePass => exact whole_rangesKept (fun s => drawSprites_rangesKept s _ _) s
  | inputSample => exact whole_rangesKept sampleInput_rangesKept s
  | powerEval => exact whole_rangesKept evalPower_rangesKept s
  | vblank => exact whole_rangesKept (f := State.raiseVblank) (fun _ => {}) s
  | frameRender => exact (beginLong_rangesKept s).trans (beginBand_rangesKept _ _)
  | cpuExec => exact (beginLong_rangesKept s).trans (RangesKept.of_orch_env ..)
  | attract =>
    have hstepped := (beginOp_rangesKept s).trans (stepDetector_rangesKept _)
    dsimp only [effectOf]
    split
    · exact hstepped.trans (RangesKept.of_orch_env ..)
    · exact hstepped.trans (finishOp_rangesKept _)
  | pace =>
    dsimp only [effectOf]
    split
    · exact RangesKept.of_orch_env ..
    · exact (beginLong_rangesKept s).trans (enterPace_rangesKept _)

theorem exec_rangesKept {i : Instr} (h : exec i s = .next t) : RangesKept s t := by
  obtain ⟨code, -, rfl⟩ | ⟨-, rfl⟩ := exec_cases h
  · exact refuse_rangesKept s code
  · exact effectOf_rangesKept i s

/-! ### Every phase transition -/

theorem setPhase_rangesKept (s : State) (p : Phase) : RangesKept s (s.setPhase p) := {}

theorem setAgent_rangesKept (s : State) (a : Agent) : RangesKept s (s.setAgent a) := {}

theorem setInputs_rangesKept (s : State) (l : List Input) : RangesKept s (s.setInputs l) := {}

theorem setCutDue_rangesKept (s : State) (b : Bool) : RangesKept s (s.setCutDue b) := {}

theorem backToTickStart_rangesKept (s : State) : RangesKept s s.backToTickStart := {}

theorem enterCutscene_rangesKept (s : State) : RangesKept s s.enterCutscene := {}

theorem enterFrame_rangesKept (s : State) : RangesKept s s.enterFrame := by
  unfold State.enterFrame
  split
  · exact (RangesKept.of_orch_env ..).trans (sampleInput_rangesKept _)
  · exact beginBand_rangesKept s 0

theorem afterCutscene_rangesKept (s : State) : RangesKept s s.afterCutscene := by
  have hraised : RangesKept s (if s.env.platform.cut = .fail then s.raise .cutsceneFailed else s) := by
    split
    · exact RangesKept.of_orch_env ..
    · exact RangesKept.refl s
  unfold State.afterCutscene
  dsimp only
  generalize (if s.env.platform.cut = .fail then s.raise .cutsceneFailed else s) = raised at hraised ⊢
  have hended := hraised.trans ((creditReset_rangesKept _).trans (setCutDue_rangesKept _ false))
  split
  · exact hended.trans (backToTickStart_rangesKept _)
  · exact hended

/-- The phase becomes `p`, and the work of its entry follows (45_frame_orchestrator.md R261). -/
theorem entry_rangesKept {f : State → State} (hf : ∀ s, RangesKept s (f s)) (s : State) (p : Phase) :
    RangesKept s (f (s.setPhase p)) := (setPhase_rangesKept s p).trans (hf _)

theorem orchStep_rangesKept (h : orchStep s = .next t) : RangesKept s t := by
  cases hp : s.orch.phase <;> simp only [orchStep, hp] at h
  case tickStart => exact (setAgent_rangesKept s .orch).trans (exec_rangesKept (i := .tick) h)
  all_goals cases h
  case reset | initFailed => exact .refl s
  case cpuExec =>
    split
    · exact backToTickStart_rangesKept s
    · exact entry_rangesKept parseSound_rangesKept s .parse
  case parse => exact entry_rangesKept prepSprites_rangesKept s .sprPrep
  case sprPrep => exact enterFrame_rangesKept s
  case bandRender => exact afterRender_rangesKept s
  case bandWait =>
    split
    · exact afterWait_rangesKept s
    · exact .refl s
  case bandSend => exact afterSend_rangesKept s
  case audioRefill => exact nextBand_rangesKept s
  case frameWait =>
    split
    · split
      · exact (frameDone_rangesKept s).trans (backToTickStart_rangesKept _)
      · exact (frameDone_rangesKept s).trans (entry_rangesKept sampleInput_rangesKept _ .input)
    · exact .refl s
  case input => exact entry_rangesKept evalPower_rangesKept s .power
  case power => exact entry_rangesKept (f := State.raiseVblank) (fun _ => {}) s .vblank
  case vblank => exact entry_rangesKept stepDetector_rangesKept s .attract
  case attract =>
    split
    · exact enterCutscene_rangesKept s
    · exact enterPace_rangesKept s
  case cutscene =>
    split
    · split
      · exact .refl s
      · exact afterCutscene_rangesKept s
    · exact enterPace_rangesKept s
  case pace =>
    split
    · exact .refl s
    · exact backToTickStart_rangesKept s

theorem step_rangesKept (h : step s = .next t) : RangesKept s t := by
  obtain ⟨-, h⟩ | ⟨rest, -, h⟩ | ⟨p, rest, -, rfl⟩ | ⟨a, i, rest, -, h⟩ | ⟨a, code, rest, rfl⟩ := step_cases h
  · exact orchStep_rangesKept h
  · exact (setInputs_rangesKept s rest).trans (orchStep_rangesKept h)
  · exact RangesKept.of_orch_env ..
  · exact (RangesKept.of_orch_env ..).trans (exec_rangesKept h)
  · exact RangesKept.of_orch_env ..

end Sys2Proof.Machine

open Sys2Proof Sys2Proof.Machine

/-- Settles O57: a step is made of operations, each of which keeps every range (`RangesKept`). -/
theorem stepKeepsRanges : Obligations.StepKeepsRanges := by
  intro s t h
  obtain ⟨hcfg, hload, hmemory, hsound, htilt, hcounters, hsprites, hvoices, hbands⟩ := step_rangesKept h
  exact ⟨hmemory, hsound, htilt, hcounters, hsprites, hvoices, hbands, hcfg, hload⟩
end

section
/-! Which transactions write which piece of state (10_state.md R30 to R63): one lemma for each piece, over all instructions. The
instructions named in its statement may write the piece; the effect of any other is made of operations whose simp laws leave the
piece as it is, `ATTRACT` and `PACE` on both of their branches. -/

namespace Sys2Proof.Machine

open Sys2Proof

variable (i : Instr) (s : State)

theorem effectOf_blk :
    i = .reset ∨ cmdClass i = .crst ∨ (∃ a v, i = .wrSpra a v ∨ i = .wrSprp a v ∨ i = .wrIe a v ∨ i = .wrBlk a v) ∨
      (∃ o v, i = .iwr o v) ∨ (effectOf i s).mio.blk = s.mio.blk := by
  cases i with
  | reset => exact .inl rfl
  | crst => exact .inr (.inl rfl)
  | wrSpra | wrSprp | wrIe | wrBlk => simp
  | iwr => simp
  | _ => simp [effectOf, whole, State.startTick, apply_ite State.mio]

theorem effectOf_snd : i = .reset ∨ (∃ a v, i = .wrSnd a v) ∨ (effectOf i s).mio.snd = s.mio.snd := by
  cases i with
  | reset => exact .inl rfl
  | wrSnd => simp
  | _ => simp [effectOf, whole, State.startTick, apply_ite State.mio]

theorem effectOf_irqvec : i = .reset ∨ (∃ p v, i = .outVec p v) ∨ (effectOf i s).mio.irqvec = s.mio.irqvec := by
  cases i with
  | reset => exact .inl rfl
  | outVec => simp
  | _ => simp [effectOf, whole, State.startTick, apply_ite State.mio]

theorem effectOf_inputs : i = .reset ∨ i = .inputSample ∨
    ((effectOf i s).mio.in0 = s.mio.in0 ∧ (effectOf i s).mio.in1 = s.mio.in1 ∧ (effectOf i s).tilt = s.tilt ∧
      (effectOf i s).coin = s.coin) := by
  cases i with
  | reset => exact .inl rfl
  | inputSample => exact .inr (.inl rfl)
  | _ => simp [effectOf, whole, State.startTick, apply_ite State.mio, apply_ite State.tilt, apply_ite State.coin]

theorem effectOf_voices :
    i = .reset ∨ i = .sndParse ∨ (∃ n, i = .sndRender n) ∨ i = .audioRefill ∨ (effectOf i s).voices = s.voices := by
  cases i with
  | reset => exact .inl rfl
  | sndParse | sndRender | audioRefill => simp
  | _ => simp [effectOf, whole, State.startTick, apply_ite State.voices]

theorem effectOf_power : i = .reset ∨ i = .powerEval ∨ (effectOf i s).power = s.power := by
  cases i with
  | reset => exact .inl rfl
  | powerEval => exact .inr (.inl rfl)
  | _ => simp [effectOf, whole, State.startTick, apply_ite State.power]

theorem effectOf_det : i = .reset ∨ i = .attract ∨ (effectOf i s).det = s.det := by
  cases i with
  | reset => exact .inl rfl
  | attract => exact .inr (.inl rfl)
  | _ => simp [effectOf, whole, State.startTick, apply_ite State.det]

theorem effectOf_asl : i = .reset ∨ i = .sprPrep ∨ (effectOf i s).video.asl = s.video.asl := by
  cases i with
  | reset => exact .inl rfl
  | sprPrep => exact .inr (.inl rfl)
  | _ => simp [effectOf, whole, State.startTick, apply_ite State.video]

theorem effectOf_tat : i = .reset ∨ i = .tatBuild ∨ (effectOf i s).video.tat = s.video.tat := by
  cases i with
  | reset => exact .inl rfl
  | tatBuild => exact .inr (.inl rfl)
  | _ => simp [effectOf, whole, State.startTick, apply_ite State.video]

theorem effectOf_palx : i = .reset ∨ i = .palBuild ∨ (effectOf i s).video.palx = s.video.palx := by
  cases i with
  | reset => exact .inl rfl
  | palBuild => exact .inr (.inl rfl)
  | _ => simp [effectOf, whole, State.startTick, apply_ite State.video]

theorem effectOf_buffers :
    i = .reset ∨ i = .frameRender ∨ (∃ k b, i = .tilePass k b ∨ i = .spritePass k b ∨ i = .bandRender k b) ∨
      ((effectOf i s).video.buf0 = s.video.buf0 ∧ (effectOf i s).video.buf1 = s.video.buf1) := by
  cases i with
  | reset => exact .inl rfl
  | frameRender => exact .inr (.inl rfl)
  | tilePass | spritePass | bandRender => simp
  | _ => simp [effectOf, whole, State.startTick, apply_ite State.video]

theorem effectOf_owners : i = .reset ∨ i = .frameRender ∨ (∃ k b, i = .bandRender k b) ∨
    ((effectOf i s).video.owner0 = s.video.owner0 ∧ (effectOf i s).video.owner1 = s.video.owner1) := by
  cases i with
  | reset => exact .inl rfl
  | frameRender => exact .inr (.inl rfl)
  | bandRender => simp
  | _ => simp [effectOf, whole, State.startTick, apply_ite State.video]

theorem effectOf_dispBusy : i = .reset ∨ (effectOf i s).video.dispBusy = s.video.dispBusy := by
  cases i with
  | reset => exact .inl rfl
  | _ => simp [effectOf, whole, State.startTick, apply_ite State.video]

theorem effectOf_phase : i = .reset ∨ i = .tick ∨ i = .frameRender ∨ i = .cpuExec ∨ i = .attract ∨ i = .pace ∨
    (effectOf i s).orch.phase = s.orch.phase := by
  cases i with
  | reset => exact .inl rfl
  | tick | frameRender | cpuExec | attract | pace => simp
  | _ => simp [effectOf, whole]

theorem effectOf_bandJ : i = .reset ∨ i = .frameRender ∨ (effectOf i s).orch.bandJ = s.orch.bandJ := by
  cases i with
  | reset => exact .inl rfl
  | frameRender => exact .inr (.inl rfl)
  | _ => simp [effectOf, whole, State.startTick, apply_ite State.orch, apply_ite Orch.bandJ]

theorem effectOf_tickT0 : i = .reset ∨ i = .tick ∨ (effectOf i s).orch.tickT0 = s.orch.tickT0 := by
  cases i with
  | reset => exact .inl rfl
  | tick => exact .inr (.inl rfl)
  | _ => simp [effectOf, whole, apply_ite State.orch, apply_ite Orch.tickT0]

theorem effectOf_fault : i = .reset ∨ (effectOf i s).orch.fault = s.orch.fault := by
  cases i with
  | reset => exact .inl rfl
  | _ => simp [effectOf, whole, State.startTick, apply_ite State.orch, apply_ite Orch.fault]

end Sys2Proof.Machine

open Sys2Proof Sys2Proof.Machine

/-- Settles O12: a refused transaction changes nothing of the block, and of an admitted one each lemma above says which instructions
write its piece of state. -/
theorem onlyNamedTransactionsWrite : Obligations.OnlyNamedTransactionsWrite := by
  intro i s t h
  refine ⟨(exec_rangesKept h).cfg, (exec_rangesKept h).load, ?_⟩
  obtain ⟨code, -, rfl⟩ | ⟨-, rfl⟩ := exec_cases h
  · have hbytes : BytesSame s (s.refuse code) := fun _ => rfl
    simp [hbytes]
  · exact ⟨(effectOf_blk i s).imp_right (Or.imp_right (Or.imp_right (Or.imp_right State.byteAt_congr))), effectOf_snd i s,
      effectOf_irqvec i s, effectOf_inputs i s, effectOf_voices i s, effectOf_power i s, effectOf_det i s, effectOf_asl i s,
      effectOf_tat i s, effectOf_palx i s, effectOf_buffers i s, effectOf_owners i s, effectOf_dispBusy i s,
      effectOf_phase i s, effectOf_bandJ i s, effectOf_tickT0 i s, effectOf_fault i s⟩
end

section
/-! The life of ORCH (10_state.md R60, R63): halted, before its first `RESET` or after one that failed, or running with both tables
built. Nothing but a `RESET` starts it, and nothing but a `RESET` that fails halts it. -/

namespace Sys2Proof.Machine

open Sys2Proof

variable {s t u : State}

/-- ORCH runs: a `RESET` has succeeded, and both tables are built. -/
def Running (s : State) : Prop :=
  s.orch.fault = none ∧ s.orch.phase ≠ .reset ∧ s.orch.phase ≠ .initFailed ∧ s.notBuilt = false

/-- No `RESET` has been made since power-up, or the last one failed. -/
def Halted (s : State) : Prop :=
  (s.orch.phase = .reset ∧ s.orch.fault = none) ∨ (s.orch.phase = .initFailed ∧ s.orch.fault ≠ none)

/-- What the two invariants say together. -/
theorem faultOk_builtOk_iff : FaultOk s ∧ BuiltOk s ↔ Running s ∨ Halted s := by
  unfold FaultOk BuiltOk Running Halted
  rw [Option.isSome_iff_ne_none]
  by_cases hreset : s.orch.phase = .reset
  · simp [hreset]
  · by_cases hfailed : s.orch.phase = .initFailed
    · simp [hfailed]
    · simp [hreset, hfailed]

/-! ### A running ORCH goes on running -/

/-- `t` is a state a running ORCH may go on to from `s`: the fault is as before, the phase is as before or one that only a running
ORCH is in, and no table is lost. The default of each field is its proof for an operation the state's simp lemmas describe. -/
structure RunsOn (s t : State) : Prop where
  fault : t.orch.fault = s.orch.fault := by simp
  phase : t.orch.phase = s.orch.phase ∨ t.orch.phase ≠ .reset ∧ t.orch.phase ≠ .initFailed := by simp
  built : s.notBuilt = false → t.notBuilt = false := by simp [State.notBuilt]

theorem RunsOn.trans (h : RunsOn s t) (h' : RunsOn t u) : RunsOn s u where
  fault := h'.fault.trans h.fault
  phase := by
    rcases h'.phase with hp | hp
    · rw [hp]; exact h.phase
    · exact .inr hp
  built := h'.built ∘ h.built

theorem Running.on (hs : Running s) (h : RunsOn s t) : Running t := by
  obtain ⟨hfault, hreset, hfailed, hbuilt⟩ := hs
  have hphase : t.orch.phase ≠ .reset ∧ t.orch.phase ≠ .initFailed := by
    rcases h.phase with hp | hp
    · rw [hp]; exact ⟨hreset, hfailed⟩
    · exact hp
  exact ⟨h.fault.trans hfault, hphase.1, hphase.2, h.built hbuilt⟩

theorem effectOf_notBuilt (i : Instr) (s : State) (hi : i ≠ .reset) (hb : s.notBuilt = false) :
    (effectOf i s).notBuilt = false := by
  simp only [State.notBuilt, Bool.or_eq_false_iff] at hb ⊢
  obtain ⟨htat, hpalx⟩ := hb
  constructor
  · rcases effectOf_tat i s with h | rfl | h
    · exact absurd h hi
    · simp [effectOf, whole]
    · rwa [h]
  · rcases effectOf_palx i s with h | rfl | h
    · exact absurd h hi
    · simp [effectOf, whole]
    · rwa [h]

theorem effectOf_runsOn (i : Instr) (s : State) (hi : i ≠ .reset) : RunsOn s (effectOf i s) where
  fault := (effectOf_fault i s).resolve_left hi
  phase := by
    cases i with
    | reset => exact absurd rfl hi
    | tick => exact .inr (by simp [effectOf, State.startTick])
    | attract =>
      dsimp only [effectOf]
      split <;> simp
    | pace =>
      dsimp only [effectOf]
      split <;> simp
    | _ => simp [effectOf, whole]
  built := effectOf_notBuilt i s hi

theorem exec_runsOn {i : Instr} (hi : i ≠ .reset) (h : exec i s = .next t) : RunsOn s t := by
  obtain ⟨code, -, rfl⟩ | ⟨-, rfl⟩ := exec_cases h
  · exact {}
  · exact effectOf_runsOn i s hi

theorem nextBand_runsOn (s : State) : RunsOn s s.nextBand := by
  unfold State.nextBand
  split <;> exact {}

theorem enterFrame_runsOn (s : State) : RunsOn s s.enterFrame := by
  unfold State.enterFrame
  split <;> exact {}

theorem afterRender_runsOn (s : State) : RunsOn s s.afterRender := by
  unfold State.afterRender
  split <;> exact {}

theorem sendBand_runsOn (s : State) (j : Nat) : RunsOn s (s.sendBand j) := {}

theorem afterWait_runsOn (s : State) : RunsOn s s.afterWait :=
  RunsOn.trans (t := s.waitReturned (s.orch.bandJ - 1)) {} (sendBand_runsOn _ _)

theorem afterSend_runsOn (s : State) : RunsOn s s.afterSend := by
  unfold State.afterSend
  split
  · exact {}
  · exact nextBand_runsOn s

theorem creditReset_setCutDue_runsOn (s : State) (b : Bool) : RunsOn s (s.creditReset.setCutDue b) := {}

theorem backToTickStart_runsOn (s : State) : RunsOn s s.backToTickStart := {}

theorem frameDone_runsOn (s : State) : RunsOn s s.frameDone := {}

theorem afterCutscene_runsOn (s : State) : RunsOn s s.afterCutscene := by
  have hraised : RunsOn s (if s.env.platform.cut = .fail then s.raise .cutsceneFailed else s) := by
    split <;> exact {}
  unfold State.afterCutscene
  dsimp only
  generalize (if s.env.platform.cut = .fail then s.raise .cutsceneFailed else s) = raised at hraised ⊢
  have hended := hraised.trans (creditReset_setCutDue_runsOn raised false)
  split
  · exact hended.trans (backToTickStart_runsOn _)
  · exact hended

theorem orchStep_runsOn (h : orchStep s = .next t) : RunsOn s t := by
  cases hp : s.orch.phase <;> simp only [orchStep, hp] at h
  case tickStart =>
    have hagent : RunsOn s (s.setAgent .orch) := {}
    exact hagent.trans (exec_runsOn (i := .tick) (by simp) h)
  all_goals cases h
  case reset | initFailed => exact {}
  case parse | input | power | vblank => exact {}
  case cpuExec | attract | pace => split <;> exact {}
  case sprPrep => exact enterFrame_runsOn s
  case bandRender => exact afterRender_runsOn s
  case bandWait =>
    split
    · exact afterWait_runsOn s
    · exact {}
  case bandSend => exact afterSend_runsOn s
  case audioRefill => exact nextBand_runsOn s
  case frameWait =>
    split
    · split
      · exact (frameDone_runsOn s).trans (backToTickStart_runsOn _)
      · exact {}
    · exact {}
  case cutscene =>
    split
    · split
      · exact {}
      · exact afterCutscene_runsOn s
    · exact {}

/-! ### A halted ORCH stays halted until a `RESET` -/

theorem orchStep_of_halted (hs : Halted s) : orchStep s = .next s := by
  unfold orchStep
  obtain ⟨hp, -⟩ | ⟨hp, -⟩ := hs <;> rw [hp]

/-- Before the first `RESET` the access table is closed but for its row of `RESET` (60_exceptions.md R360; 70_reset_and_hazards.md
R386). -/
theorem allowed_of_reset (hp : s.orch.phase = .reset) {c : CmdClass} (hc : c ≠ .reset) (a : Agent) : allowed c a s = false := by
  cases c with
  | reset => exact absurd rfl hc
  | inspect | crst => cases a <;> simp [allowed, State.atBoundary, hp]
  | int => cases a <;> simp [allowed, tickPhase, hp]
  | bus | tick => cases a <;> simp [allowed, hp]

theorem cmdClass_eq_reset {i : Instr} (h : cmdClass i = .reset) : i = .reset := by
  cases i with
  | reset => rfl
  | _ => cases h

theorem exec_of_halted {i : Instr} (hs : Halted s) (hi : i ≠ .reset) : ∃ code, exec i s = .next (s.refuse code) := by
  have hc : cmdClass i ≠ .reset := fun h => hi (cmdClass_eq_reset h)
  obtain ⟨hp, hf⟩ | ⟨-, hf⟩ := hs
  · exact ⟨_, exec_refused (refusal_of_closed hf (allowed_of_reset hp hc _))⟩
  · exact ⟨_, exec_refused (refusal_of_fault hf hc)⟩

/-! ### A `RESET` that is admitted starts ORCH or fails -/

theorem reboot_running_or_halted (s : State) : Running s.reboot ∨ Halted s.reboot := by
  unfold State.reboot
  split
  · exact .inr (.inr ⟨rfl, by simp [State.failInit]⟩)
  · exact .inl ⟨rfl, by simp, by simp, rfl⟩

/-! ### Every step -/

theorem exec_running_or_halted {i : Instr} (hs : Running s ∨ Halted s) (h : exec i s = .next t) : Running t ∨ Halted t := by
  by_cases hi : i = .reset
  · subst hi
    obtain ⟨code, -, rfl⟩ | ⟨-, rfl⟩ := exec_cases h
    · exact hs
    · exact reboot_running_or_halted s
  · rcases hs with hrun | hhalt
    · exact .inl (hrun.on (exec_runsOn hi h))
    · obtain ⟨code, hrefused⟩ := exec_of_halted hhalt hi
      cases hrefused.symm.trans h
      exact .inr hhalt

theorem orchStep_running_or_halted (hs : Running s ∨ Halted s) (h : orchStep s = .next t) : Running t ∨ Halted t := by
  rcases hs with hrun | hhalt
  · exact .inl (hrun.on (orchStep_runsOn h))
  · cases (orchStep_of_halted hhalt).symm.trans h
    exact .inr hhalt

/-- The inputs, the agent and the levels are no state of ORCH, so `hs` speaks of the state with any of them changed as well. -/
theorem step_running_or_halted (hs : Running s ∨ Halted s) (h : step s = .next t) : Running t ∨ Halted t := by
  obtain ⟨-, h⟩ | ⟨rest, -, h⟩ | ⟨p, rest, -, rfl⟩ | ⟨a, i, rest, -, h⟩ | ⟨a, code, rest, rfl⟩ := step_cases h
  · exact orchStep_running_or_halted hs h
  · exact orchStep_running_or_halted (s := s.setInputs rest) hs h
  · exact hs
  · exact exec_running_or_halted (s := (s.setInputs rest).setAgent a) hs h
  · exact hs

end Sys2Proof.Machine

open Sys2Proof Sys2Proof.Machine

/-- Settles O58: ORCH runs or is halted before and after every step. -/
theorem stepKeepsFaultAndTables : Obligations.StepKeepsFaultAndTables := by
  intro s t h hfault hbuilt
  exact faultOk_builtOk_iff.2 (step_running_or_halted (faultOk_builtOk_iff.1 ⟨hfault, hbuilt⟩) h)
end

section
/-! What a successful `RESET` leaves (10_state.md R65), and the invariants in the state the machine starts in. -/

namespace Sys2Proof.Machine

open Sys2Proof

variable {s : State}

/-! ### The two tables -/

/-- An entry of a table built row by row. -/
theorem getD_getD_map_range {α : Type} (f : Nat → Nat → α) {m n r q : Nat} (hr : r < m) (hq : q < n) (d : α) :
    (((List.range m).map fun r => (List.range n).map fun q => f r q).getD r []).getD q d = f r q := by
  simp [List.getD_eq_getElem?_getD, hr, hq]

theorem buildTat_tatAt (s : State) {r q : Nat} (hr : r < s.cfg.geo.nrows) (hq : q < s.cfg.geo.ncols) :
    s.buildTat.tatAt r q = (tas s.cfg.geo r q).toNat := getD_getD_map_range _ hr hq _

theorem buildPal_palxAt (s : State) {g e : Nat} (hg : g < s.cfg.ngroups) (he : e < s.cfg.spr.groupLen) :
    s.buildPal.palxAt g e = palTransform s.cfg.spr.palXform (s.load.palEntry s.cfg g e) := by
  rw [palxAt_of_lt (s := s.buildPal) he]
  exact getD_getD_map_range _ hg he _

/-- In a good record the scramble function is not negative, so its table holds its values as they are (00_scope.md R13). -/
theorem tas_nonneg_of_paramsOk {c : Params} (h : paramsOk c = true) {r q : Nat} (hr : r < c.geo.nrows) (hq : q < c.geo.ncols) :
    0 ≤ tas c.geo r q := by
  have hrange : tasInRange c.geo = true := by
    simp only [paramsOk, geoOk, Bool.and_eq_true] at h
    tauto
  simp only [tasInRange, List.all_eq_true, List.mem_range, Bool.and_eq_true, decide_eq_true_eq] at hrange
  exact (hrange r hr q hq).1

/-! ### The controller -/

theorem resetMio_of_zero {c : Params} (h : c.map.resetFill = .zero) (n : Nat) : resetMio c n = Mio.reset c := by
  simp [resetMio, h]

/-- The ports and the vector latch are reset alike under both fills. -/
theorem resetMio_ports (c : Params) (n : Nat) :
    (resetMio c n).irqvec = 0#8 ∧ (resetMio c n).in0 = 0xFF#8 ∧ (resetMio c n).in1 = 0xFF#8 := by
  unfold resetMio
  split <;> exact ⟨rfl, rfl, rfl⟩

theorem replicate_reset_get (v : Fin 3) : (Vector.replicate 3 Voice.reset)[v] = Voice.reset := by
  simp

/-! ### The transaction -/

/-- The block once `RESET` has succeeded (70_reset_and_hazards.md R380). -/
def State.rebooted (s : State) : State := ((s.resetBlock.buildTat.buildPal.boot).setPhase .tickStart).done

/-- HOST's `RESET` succeeds in every phase, with a fault set or not, when the record, the tables and the allocations are good. -/
theorem exec_reset_of_ok (ha : s.env.agent = .host) (hp : paramsOk s.cfg = true) (hl : s.load.loaded s.cfg = true)
    (hs : allocFailure s.env.platform = none) : exec .reset s = .next s.rebooted := by
  have hopen : refusal (cmdClass .reset) (conditionsOf .reset s) s = none := by
    simp [refusal, allowed, cmdClass, conditionsOf, ha, hp, hl]
  have heffect : s.reboot = s.rebooted := by simp [State.reboot, State.rebooted, hs]
  rw [exec_effect hopen]
  exact congrArg _ heffect

/-- The palette cache is built after the tile address table, which it leaves as it is. -/
theorem rebooted_tatAt (hp : paramsOk s.cfg = true) {r q : Nat} (hr : r < s.cfg.geo.nrows) (hq : q < s.cfg.geo.ncols) :
    (s.rebooted.tatAt r q : Int) = tas s.cfg.geo r q := by
  have h : s.rebooted.tatAt r q = (tas s.cfg.geo r q).toNat := buildTat_tatAt s.resetBlock hr hq
  rw [h, Int.toNat_of_nonneg (tas_nonneg_of_paramsOk hp hr hq)]

theorem rebooted_palxAt (s : State) {g e : Nat} (hg : g < s.cfg.ngroups) (he : e < s.cfg.spr.groupLen) :
    s.rebooted.palxAt g e = palTransform s.cfg.spr.palXform (s.load.palEntry s.cfg g e) :=
  buildPal_palxAt s.resetBlock.buildTat hg he

theorem rebooted_mio (s : State) : s.rebooted.mio = resetMio s.cfg s.env.draws := rfl

theorem rebooted_zero (s : State) (h : s.cfg.map.resetFill = .zero) :
    (∀ off, s.rebooted.byteAt off = 0#8) ∧ ∀ r, s.rebooted.sndAt r = 0#8 := by
  simp only [State.byteAt, State.sndAt, rebooted_mio, resetMio_of_zero h]
  exact ⟨fun _ => rfl, fun r => by simp [Mio.reset]⟩

end Sys2Proof.Machine

open Sys2Proof Sys2Proof.Machine

/-- Settles O19: `State.rebooted` is the state `RESET` leaves; the values not named by a lemma here are written out in
`State.resetBlock`. -/
theorem resetLeaves : Obligations.ResetLeaves := by
  intro s ha hp hl hs
  obtain ⟨hlen, hnibble⟩ := resetMio_snd s.cfg s.env.draws
  obtain ⟨hirqvec, hin0, hin1⟩ := resetMio_ports s.cfg s.env.draws
  exact ⟨s.rebooted, exec_reset_of_ok ha hp hl hs, rfl, rfl, rebooted_zero s, hlen, hnibble, hirqvec, hin0, hin1,
    replicate_reset_get, rfl, rfl, rfl, rfl, fun _ _ => rebooted_tatAt hp, fun _ _ => rebooted_palxAt s, rfl, rfl, rfl, rfl,
    rfl, rfl, rfl, rfl, rfl⟩

/-- Settles O22: at power-up every register and counter is 0, both band buffers are black, and ORCH is in the phase `RESET`. -/
theorem invariantsAtReset : Obligations.InvariantsAtReset := by
  refine ⟨reset_memoryOk, ?_, ?_, ?_, ?_, ?_, ?_, ?_, ?_, ?_⟩
  · exact resetMio_snd p0 0
  · exact ⟨by decide, by decide⟩
  · exact ⟨by decide, by decide, by decide⟩
  · exact fun v => ⟨by simp [State.reset, Voice.reset], by simp [State.reset, Voice.reset]⟩
  · exact ⟨by decide, fun d hd => by cases hd⟩
  · exact fun k => by unfold State.band; split <;> exact blackBand_shaped p0
  · exact ⟨fun h => absurd h (by decide), fun h => absurd h (by decide)⟩
  · exact .inl rfl
  · exact .inr ⟨by decide, by decide, by decide, by decide⟩
end

section
/-! The band buffers in flight (20_memory.md R84). The buffer protocol says that the phase names the one buffer in flight; so a
transition that writes a buffer writes the other one, or frees the one it draws anew, and an operation HOST issues finds none in
flight. -/

namespace Sys2Proof.Machine

open Sys2Proof

variable {s t u : State} {k j : Nat}

/-! ### The accessors read the renderer's state alone -/

theorem State.band_congr (h : t.video = s.video) (k : Nat) : t.band k = s.band k := by
  simp only [State.band, h]

theorem State.owner_congr (h : t.video = s.video) (k : Nat) : t.owner k = s.owner k := by
  simp only [State.owner, h]

@[simp] theorem State.owner_setBusy (s : State) (b : Bool) (k : Nat) : (s.setBusy b).owner k = s.owner k := rfl

theorem sendBand_band (s : State) (j k : Nat) : (s.sendBand j).band k = s.band k := by
  simp [State.band]

/-- `BAND_RENDER` writes its own buffer only (43_sprite_compositor.md R210). -/
theorem renderBand_band_other (s : State) (b : Nat) (h : ¬(k = 0 ↔ j = 0)) : (s.renderBand k b).band j = s.band j := by
  simp only [State.renderBand, State.drawSprites, State.drawTiles, State.band_setBand_other _ _ _ _ h, State.band_setOwner]

theorem beginBand_band_other (s : State) (h : ¬(j % 2 = 0 ↔ k = 0)) : (s.beginBand j).band k = s.band k :=
  renderBand_band_other ((s.setBandJ j).setPhase .bandRender) _ h

/-! ### The buffer in flight is the one the phase names -/

/-- Outside `INIT_FAILED` a buffer in flight is the one of `State.inFlight` (R214). -/
theorem DisplayOk.inFlight_eq (hd : DisplayOk s) (hp : s.orch.phase ≠ .initFailed) (hk : k ≤ 1)
    (ho : s.owner k = .inflight) : s.inFlight = some k := by
  obtain ⟨-, h0, h1, -⟩ := hd.resolve_left hp
  obtain rfl | rfl : k = 0 ∨ k = 1 := by omega
  · exact h0.1 ho
  · exact h1.1 ho

/-! ### What a step spares -/

/-- From `s` to `t` the buffer `k` is not written, unless it is no longer in flight and free values have been drawn. -/
def Spares (k : Nat) (s t : State) : Prop :=
  t.owner k = .inflight ∨ t.env.draws = s.env.draws → t.band k = s.band k

theorem Spares.of_video (h : t.video = s.video) : Spares k s t := fun _ => State.band_congr h k

theorem Spares.congr_right (h : Spares k s u) (hv : t.video = u.video) (hn : t.env.draws = u.env.draws) : Spares k s t := by
  simpa only [Spares, State.band_congr hv, State.owner_congr hv, hn] using h

/-- A buffer that is drawn anew is not in flight after it. -/
theorem Spares.of_drawn (ho : t.owner k ≠ .inflight) (hd : t.env.draws ≠ s.env.draws) : Spares k s t :=
  fun h => absurd h (not_or.2 ⟨ho, hd⟩)

/-! ### ORCH's transitions -/

theorem afterRender_band (s : State) (k : Nat) : s.afterRender.band k = s.band k := by
  unfold State.afterRender
  split
  · exact State.band_congr (by simp) k
  · exact sendBand_band s _ k

/-- The band that begins is in the other buffer than the one just sent. -/
theorem nextBand_band (s : State) (hk : k = s.orch.bandJ % 2) : s.nextBand.band k = s.band k := by
  unfold State.nextBand
  split
  · exact beginBand_band_other s (by omega)
  · exact State.band_congr (by simp) k

theorem afterSend_band (s : State) (hk : k = s.orch.bandJ % 2) : s.afterSend.band k = s.band k := by
  unfold State.afterSend
  split
  · exact State.band_congr (by simp) k
  · exact nextBand_band s hk

theorem waitReturned_owner (s : State) (j : Nat) : (s.waitReturned j).owner (j % 2) = .free := by
  simp [State.waitReturned]

theorem sendBand_owner_other (s : State) (h : ¬(j % 2 = 0 ↔ k = 0)) : (s.sendBand j).owner k = s.owner k :=
  State.owner_setOwner_other _ _ _ _ h

/-- The buffer waited for is free, and the other one is sent. -/
theorem afterWait_owner (s : State) (hj : 0 < s.orch.bandJ) : s.afterWait.owner ((s.orch.bandJ - 1) % 2) = .free := by
  rw [State.afterWait, sendBand_owner_other _ (by omega)]
  exact waitReturned_owner s _

theorem frameDone_owner (s : State) : s.frameDone.owner ((s.cfg.geo.bandCount - 1) % 2) = .free :=
  waitReturned_owner s _

theorem frameDone_spares (s : State) : Spares ((s.cfg.geo.bandCount - 1) % 2) s s.frameDone :=
  .of_drawn (by simp [frameDone_owner]) (by simp)

/-- ORCH's next transition from a phase that names the buffer `k` as in flight (R214). -/
theorem orchStep_spares_inFlight (hfly : s.inFlight = some k) (h : orchStep s = .next t) : Spares k s t := by
  cases hp : s.orch.phase <;> simp only [State.inFlight, orchStep, hp, reduceCtorEq] at hfly h
  all_goals cases h
  case bandRender => exact fun _ => afterRender_band s k
  case bandWait =>
    split
    · obtain ⟨hj, rfl⟩ : 0 < s.orch.bandJ ∧ (s.orch.bandJ - 1) % 2 = k := by simpa using hfly
      exact .of_drawn (by simp [afterWait_owner s hj]) (by simp [State.afterWait])
    · exact .of_video rfl
  case bandSend => exact fun _ => afterSend_band s (Option.some.inj hfly).symm
  case audioRefill => exact fun _ => nextBand_band s (Option.some.inj hfly).symm
  case frameWait =>
    cases hfly
    split
    · split
      · exact (frameDone_spares s).congr_right (by simp) (by simp)
      · exact (frameDone_spares s).congr_right (by simp) (by simp)
    · exact .of_video rfl

theorem orchStep_spares (hd : DisplayOk s) (hk : k ≤ 1) (ho : s.owner k = .inflight) (h : orchStep s = .next t) :
    Spares k s t := by
  by_cases hp : s.orch.phase = .initFailed
  · simp only [orchStep, hp] at h
    cases h
    exact .of_video rfl
  · exact orchStep_spares_inFlight (hd.inFlight_eq hp hk ho) h

/-! ### The transactions HOST and the CPU present -/

theorem allowed_of_refusal_none {c : CmdClass} {more : List (Bool × RefusalCode)} (h : refusal c more s = none) :
    allowed c s.env.agent s = true := by
  unfold refusal at h
  split_ifs at h with hfault hclosed
  simpa using hclosed

/-- An `INT` word is admitted from HOST or the CPU in `TICK_START` only (60_exceptions.md R360). -/
theorem tickStart_of_allowed_int (ha : s.env.agent = .host ∨ s.env.agent = .cpu) (h : allowed .int s.env.agent s = true) :
    s.orch.phase = .tickStart := by
  rcases ha with ha | ha
  · simpa [allowed, ha] using h
  · simp [allowed, ha] at h

theorem inFlight_of_tickStart (hp : s.orch.phase = .tickStart) : s.inFlight = none := by
  simp [State.inFlight, hp]

theorem reboot_spares (s : State) (k : Nat) : Spares k s s.reboot := by
  unfold State.reboot
  split
  · exact .of_video rfl
  · have hfree : s.rebooted.owner k = .free := by unfold State.owner; split <;> rfl
    exact .of_drawn (t := s.rebooted) (by simp [hfree]) (Nat.succ_ne_self _)

/-- Every instruction that writes a band buffer, but `RESET`, is of the row `INT` of the access table. -/
theorem effectOf_band {i : Instr} (hreset : i ≠ .reset) (hint : cmdClass i ≠ .int) (s : State) (k : Nat) :
    (effectOf i s).band k = s.band k := by
  obtain rfl | rfl | ⟨_, _, rfl | rfl | rfl⟩ | ⟨h0, h1⟩ := effectOf_buffers i s
  · exact absurd rfl hreset
  · exact absurd rfl hint
  · exact absurd rfl hint
  · exact absurd rfl hint
  · exact absurd rfl hint
  · simp only [State.band, h0, h1]

/-- While a buffer is in flight no `INT` word is admitted, and no word of another row but `RESET` writes a buffer. -/
theorem exec_spares {i : Instr} (hd : DisplayOk s) (hk : k ≤ 1) (ho : s.owner k = .inflight)
    (ha : s.env.agent = .host ∨ s.env.agent = .cpu) (h : exec i s = .next t) : Spares k s t := by
  obtain ⟨code, -, rfl⟩ | ⟨hopen, rfl⟩ := exec_cases h
  · exact .of_video rfl
  · by_cases hreset : i = .reset
    · subst hreset
      exact reboot_spares s k
    · have hint : cmdClass i ≠ .int := fun hint => by
        have hp := tickStart_of_allowed_int ha (hint ▸ allowed_of_refusal_none hopen)
        have hfly := hd.inFlight_eq (by simp [hp]) hk ho
        simp [inFlight_of_tickStart hp] at hfly
      exact fun _ => effectOf_band hreset hint s k

/-! ### Every step -/

/-- The inputs, the agent and the levels are no state of the renderer and do not count as draws. -/
theorem step_spares (hd : DisplayOk s) (hk : k ≤ 1) (ho : s.owner k = .inflight) (h : step s = .next t) : Spares k s t := by
  obtain ⟨-, h⟩ | ⟨rest, -, h⟩ | ⟨p, rest, -, rfl⟩ | ⟨a, i, rest, ha, h⟩ | ⟨a, code, rest, rfl⟩ := step_cases h
  · exact orchStep_spares hd hk ho h
  · exact orchStep_spares (s := s.setInputs rest) hd hk ho h
  · exact .of_video rfl
  · exact exec_spares (s := (s.setInputs rest).setAgent a) hd hk ho ha h
  · exact .of_video rfl

end Sys2Proof.Machine

open Sys2Proof Sys2Proof.Machine

/-- Settles O60: every step spares a buffer in flight (`Spares`). -/
theorem inFlightBufferIsNotWritten : Obligations.InFlightBufferIsNotWritten :=
  fun _ _ _ h hk hd ho => step_spares hd hk ho h
end

section
/-! The CPU's maps (20_memory.md R71, R72): the class of an address at P0, on numbers, and the mask of a write's address
(R74). -/

namespace Sys2Proof.Machine

open Sys2Proof

/-! ### The read map at P0 -/

/-- The read map with the numbers of P0 (R71, column "P0 range"). -/
theorem readClass_p0 (a : Half) : readClass p0 a =
    if a.toNat < 0x4000 then .rom else if a.toNat < 0x5000 then .blk else if a.toNat = 0x5000 then .in0
    else if a.toNat = 0x5040 then .in1 else if a.toNat = 0x5080 then .dsw else if a.toNat < 0x6000 then .iox else .none := by
  simp only [readClass, p0, p0Map, BitVec.toNat_eq, BitVec.toNat_ofNat]
  grind

/-- At P0-MS the window `0x8000` to `0x9FFF` is read from the auxiliary ROM (R71). -/
theorem readClass_p0ms_aux {a : Half} (h : 0x8000 ≤ a.toNat) (h' : a.toNat < 0xA000) : readClass p0ms a = .aux := by
  simp only [readClass, p0ms, withAux, p0, p0Map, BitVec.toNat_eq, BitVec.toNat_ofNat]
  grind

/-! ### The write map at P0 -/

/-- Masking with `0x7FFF` drops the top address line (R74). -/
theorem toNat_and_7FFF (a : Half) : (a &&& 0x7FFF#16).toNat = a.toNat % 0x8000 := by
  rw [BitVec.toNat_and]
  exact Nat.and_two_pow_sub_one_eq_mod a.toNat 15

theorem maskedAddr_of_wrMask {c : Params} (h : c.map.wrMask = 0x7FFF#16) (a : Half) : maskedAddr c a = a.toNat % 0x8000 := by
  rw [maskedAddr, h, toNat_and_7FFF]

/-- The write map with the numbers of P0, of the address without its top line (R72, column "P0 range"): its rows in rising order. -/
theorem writeClass_p0 (a : Half) : writeClass p0 a =
    if a.toNat % 0x8000 < 0x4000 then .none else if a.toNat % 0x8000 < 0x4FF0 then .blk
    else if a.toNat % 0x8000 < 0x5000 then .spra else if a.toNat % 0x8000 = 0x5000 then .ie
    else if a.toNat % 0x8000 < 0x5040 then .blk else if a.toNat % 0x8000 < 0x5060 then .snd
    else if a.toNat % 0x8000 < 0x5070 then .sprp else if a.toNat % 0x8000 < 0x6000 then .blk else .none := by
  simp only [writeClass, maskedAddr_of_wrMask (c := p0) rfl]
  generalize a.toNat % 0x8000 = m
  simp only [Params.spraAddr, Params.sprpAddr, p0, p0Map, p0Spr]
  grind

/-! ### The words of a read and of a write -/

theorem decode_readWord (c : Params) (a : Half) : decode c (0x1#4 ++ 0x0#4 ++ 0x00#8 ++ a) = some (decodeRead c a) :=
  (decode_rd 0#4 0#8 a c).trans (if_pos ⟨rfl, rfl⟩)

theorem decode_writeWord (c : Params) (a : Half) (v : Byte) :
    decode c (0x2#4 ++ 0x0#4 ++ v ++ a) = some (decodeWrite c a v) :=
  (decode_wr 0#4 v a c).trans (if_pos rfl)

theorem decodeRead_p0 (a : Half) : decodeRead p0 a =
    if a.toNat < 0x4000 then .rdRom a else if a.toNat < 0x5000 then .rdBlk a else if a.toNat = 0x5000 then .rdIn0
    else if a.toNat = 0x5040 then .rdIn1 else if a.toNat = 0x5080 then .rdDsw
    else if a.toNat < 0x6000 then .rdIox a else .rdNone a := by
  rw [decodeRead, readClass_p0]
  grind

theorem decodeRead_p0ms_aux {a : Half} (h : 0x8000 ≤ a.toNat) (h' : a.toNat < 0xA000) : decodeRead p0ms a = .rdAux a := by
  rw [decodeRead, readClass_p0ms_aux h h']

theorem decodeWrite_p0 (a : Half) (v : Byte) : decodeWrite p0 a v =
    if a.toNat % 0x8000 < 0x4000 then .wrNone a v else if a.toNat % 0x8000 < 0x4FF0 then .wrBlk a v
    else if a.toNat % 0x8000 < 0x5000 then .wrSpra a v else if a.toNat % 0x8000 = 0x5000 then .wrIe a v
    else if a.toNat % 0x8000 < 0x5040 then .wrBlk a v else if a.toNat % 0x8000 < 0x5060 then .wrSnd a v
    else if a.toNat % 0x8000 < 0x5070 then .wrSprp a v else if a.toNat % 0x8000 < 0x6000 then .wrBlk a v
    else .wrNone a v := by
  rw [decodeWrite, writeClass_p0]
  grind

/-- The write map of P0-MS is that of P0. -/
theorem decodeWrite_p0ms (a : Half) (v : Byte) : decodeWrite p0ms a v = decodeWrite p0 a v := rfl

/-! ### The mask -/

theorem maskedAddr_add_8000 {c : Params} (h : c.map.wrMask = 0x7FFF#16) (a : Half) :
    maskedAddr c (a + 0x8000#16) = maskedAddr c a := by
  rw [maskedAddr_of_wrMask h, maskedAddr_of_wrMask h, BitVec.toNat_add, BitVec.toNat_ofNat]
  omega

/-- The class a write's address belongs to, and with it the instruction, is read from the masked address. -/
theorem writeClass_congr {c : Params} {a b : Half} (h : maskedAddr c a = maskedAddr c b) : writeClass c a = writeClass c b := by
  simp only [writeClass, h]

/-- A write has an effect at its masked address only, whatever its class. -/
theorem exec_decodeWrite_congr {s : State} {a b : Half} (v : Byte) (h : maskedAddr s.cfg a = maskedAddr s.cfg b) :
    exec (decodeWrite s.cfg a v) s = exec (decodeWrite s.cfg b v) s := by
  unfold decodeWrite
  rw [writeClass_congr h]
  cases writeClass s.cfg b with
  | spra | sprp | ie | snd | blk | none =>
    simp only [exec_eq, transact, conditionsOf, cmdClass, effectOf, writeOffset, sndIndex, h]

end Sys2Proof.Machine

open Sys2Proof Sys2Proof.Machine

/-- Settles O5: with the maps written on numbers, in each range the tests before its own fail and its own holds. -/
theorem cpuMapsAtP0 : Obligations.CpuMapsAtP0 := by
  intro a v
  simp only [decode_readWord, decode_writeWord, decodeRead_p0, decodeWrite_p0, Option.some.injEq]
  have haux (h : 0x8000 ≤ a.toNat ∧ a.toNat < 0xA000) := decodeRead_p0ms_aux h.1 h.2
  refine ⟨?_, ?_, ?_, ?_, ?_, ?_, ?_, haux, ?_, ?_, ?_, ?_, or_imp.2 ⟨?_, or_imp.2 ⟨?_, ?_⟩⟩, or_imp.2 ⟨?_, ?_⟩⟩
  all_goals
    intro h
    simp (disch := omega) only [if_pos, if_neg]

/-- Settles O16: a write is carried out at its masked address, and P0 and P0-MS show that a read is not. -/
theorem writesAreMaskedReadsAreNot : Obligations.WritesAreMaskedReadsAreNot := by
  refine ⟨fun s a v h => exec_decodeWrite_congr v (maskedAddr_add_8000 h a), fun a v h h' => ?_, fun a v h h' => ?_⟩
  · rw [decodeRead_p0, decodeWrite_p0]
    simp (disch := omega) only [if_pos, if_neg, true_and]
    -- the tests that remain are those of the rows inside the block
    split_ifs <;> simp
  · refine ⟨decodeRead_p0ms_aux h h', ?_⟩
    rw [decodeWrite_p0ms, decodeWrite_p0, if_pos (by omega)]
end

section
/-! What an operation that is complete in one step does around its work (60_exceptions.md R341, R347): the operations of the renderer
write the renderer's state, so of a state their beginning and their end differ from it in the run's outputs only. -/

namespace Sys2Proof.Machine

open Sys2Proof

variable {s : State} {f : State → State}

theorem State.beginOp_eq (s : State) : s.beginOp = { s with env := s.beginOp.env } := by
  unfold State.beginOp; split <;> rfl

theorem State.finishOp_eq (s : State) : s.finishOp = { s with env := s.finishOp.env } := by
  unfold State.finishOp; split <;> rfl

@[simp] theorem whole_video (f : State → State) (s : State) : (whole f s).video = (f s.beginOp).video :=
  State.finishOp_video _

/-- The operation of HOST or ORCH has its effect when `INT` is open to the agent and no condition of its own holds. -/
theorem exec_int {i : Instr} (hi : cmdClass i = .int) (hs : IntReady s) (hm : ∀ x ∈ conditionsOf i s, x.1 = false) :
    exec i s = .next (effectOf i s) := by
  obtain ⟨hfault, hopen⟩ := intReady_iff.1 hs
  exact exec_open hfault (hi ▸ hopen) hm

/-- The work of the operation is on the renderer's state alone. -/
def WritesVideo (f : State → State) : Prop := ∀ s : State, f s = { s with video := (f s).video }

theorem whole_videoOnly (hf : WritesVideo f) (s : State) : VideoOnly s (whole f s) := by
  have hstate : whole f s = { s with video := (whole f s).video, env := (whole f s).env } :=
    calc whole f s = { f s.beginOp with env := (whole f s).env } := State.finishOp_eq _
      _ = { s.beginOp with video := (f s.beginOp).video, env := (whole f s).env } := by rw [hf s.beginOp]
      _ = { s with video := (whole f s).video, env := (whole f s).env } := by simp
  exact ⟨hstate, State.byteAt_congr (congrArg (·.mio.blk) hstate)⟩

theorem WritesVideo.env_eq (hf : WritesVideo f) (s : State) : (f s).env = s.env := by rw [hf s]

theorem whole_putsOut_nil (hf : WritesVideo f) (s : State) : PutsOut s (whole f s) [] := by
  simp [PutsOut, whole, hf.env_eq]

theorem whole_endsWith_ok (hf : WritesVideo f) (s : State) : EndsWith s (whole f s) .ok := by
  intro hhost
  have hst : (f s.beginOp).env.st = [] := by rw [hf.env_eq, beginOp_st, if_pos hhost]
  exact finishOp_status_ok (fun _ => hst) (by simpa [hf.env_eq] using hhost)

end Sys2Proof.Machine
end

section
/-! The tile address table and the palette cache (42_tile_scrambler.md R170 to R174). -/

namespace Sys2Proof.Machine

open Sys2Proof

variable {s : State}

/-! ### The scramble function -/

/-- R171 without natural subtraction: within a region no difference is negative. -/
theorem tas_eq (g : GeoParams) (r q : Nat) : tas g r q =
    if r < g.topRows then g.tasTopBase + g.tasStride * r - q
    else if g.nrows - g.botRows ≤ r then g.tasBotBase + g.tasStride * ((r : Int) - ((g.nrows - g.botRows : Nat) : Int)) - q
    else g.tasMainBase + ((r : Int) - (g.topRows : Int)) - g.tasStride * q := by
  unfold tas
  split
  · rfl
  · split
    · rw [Int.ofNat_sub ‹_›]
    · rw [Int.ofNat_sub (Nat.le_of_not_lt ‹_›)]

theorem tas_nonneg_of_inRange {g : GeoParams} (h : tasInRange g = true) {r q : Nat} (hr : r < g.nrows) (hq : q < g.ncols) :
    0 ≤ tas g r q := by
  simp only [tasInRange, List.all_eq_true, List.mem_range, Bool.and_eq_true, decide_eq_true_eq] at h
  exact (h r hr q hq).1

/-- R171 with the numbers of P0. -/
theorem tas_p0 (r q : Nat) : tas p0Geo r q =
    if r < 2 then 0x3DD + 0x20 * (r : Int) - q else if 34 ≤ r then 0x01D + 0x20 * ((r : Int) - 34) - q
    else 0x3A0 + ((r : Int) - 2) - 0x20 * q := tas_eq p0Geo r q

/-- The row of the tile at an offset `v` of Video RAM at P0: the 32 offsets of a line of Video RAM are those of a row of tiles at the
bottom and at the top, and those of a column between them. -/
def rowAtP0 (v : Nat) : Nat := if v < 0x40 then 34 + v / 32 else if v < 0x3C0 then 2 + v % 32 else v / 32 - 30

/-- The column of the tile at an offset `v` of Video RAM at P0. -/
def colAtP0 (v : Nat) : Nat := if v < 0x40 ∨ 0x3C0 ≤ v then 29 - v % 32 else 29 - v / 32

/-- At the bottom and at the top a line of Video RAM has two offsets more at each end than a row has tiles. -/
def unusedAtP0 (v : Nat) : Prop := (v < 0x40 ∨ 0x3C0 ≤ v) ∧ (v % 32 < 2 ∨ 30 ≤ v % 32)

/-- At P0 the scramble has an inverse on the offsets it takes. -/
theorem tas_p0_eq_iff {r q v : Nat} (hr : r < 36) (hq : q < 28) (hv : v < 0x400) :
    tas p0Geo r q = v ↔ ¬unusedAtP0 v ∧ r = rowAtP0 v ∧ q = colAtP0 v := by
  rw [tas_p0, unusedAtP0, rowAtP0, colAtP0]
  split_ifs <;> omega

theorem rowAtP0_lt {v : Nat} (hv : v < 0x400) : rowAtP0 v < 36 := by
  unfold rowAtP0; split_ifs <;> omega

theorem colAtP0_lt {v : Nat} (hv : v < 0x400) (h : ¬unusedAtP0 v) : colAtP0 v < 28 := by
  unfold unusedAtP0 at h; unfold colAtP0; split_ifs <;> omega

/-- The sixteen offsets listed in R172. -/
theorem unusedAtP0_iff {v : Nat} (hv : v < 0x400) : unusedAtP0 v ↔
    v ∈ [0x000, 0x001, 0x01E, 0x01F, 0x020, 0x021, 0x03E, 0x03F, 0x3C0, 0x3C1, 0x3DE, 0x3DF, 0x3E0, 0x3E1, 0x3FE, 0x3FF] := by
  simp only [unusedAtP0, List.mem_cons, List.not_mem_nil, or_false]
  omega

/-- The three ranges of R172. -/
theorem tas_p0_ranges {r q : Nat} (hr : r < 36) (hq : q < 28) :
    (r < 2 → 0x3C2 ≤ tas p0Geo r q ∧ tas p0Geo r q ≤ 0x3FD) ∧ (34 ≤ r → 0x002 ≤ tas p0Geo r q ∧ tas p0Geo r q ≤ 0x03D) ∧
      (2 ≤ r ∧ r < 34 → 0x040 ≤ tas p0Geo r q ∧ tas p0Geo r q ≤ 0x3BF) := by
  rw [tas_p0]
  split_ifs <;> omega

/-- Every value of the scramble at P0 is an offset of Video RAM. -/
theorem exists_tas_p0_eq {r q : Nat} (hr : r < 36) (hq : q < 28) : ∃ v : Nat, v < 0x400 ∧ tas p0Geo r q = v := by
  obtain ⟨htop, hbot, hmain⟩ := tas_p0_ranges hr hq
  exact ⟨(tas p0Geo r q).toNat, by omega, by omega⟩

/-! ### The palette cache -/

/-- `SWAP16` on numbers (10_state.md R43). -/
theorem palTransform_swap16_toNat (v : Half) :
    (palTransform .swap16 v).toNat = 256 * (v.toNat % 256) + v.toNat / 256 := by
  have hhigh : v.toNat / 256 < 2 ^ 8 := by omega
  have hlow : (v.extractLsb' 0 8).toNat = v.toNat % 256 := by simp
  have hup : (v.extractLsb' 8 8).toNat = v.toNat / 256 := by
    rw [BitVec.extractLsb'_toNat, Nat.shiftRight_eq_div_pow, Nat.mod_eq_of_lt hhigh]
  calc (palTransform .swap16 v).toNat = (v.toNat % 256) <<< 8 ||| v.toNat / 256 := by
        rw [← hlow, ← hup]; exact BitVec.toNat_append ..
    _ = (v.toNat % 256) <<< 8 + v.toNat / 256 := (Nat.shiftLeft_add_eq_or_of_lt hhigh _).symm
    _ = 256 * (v.toNat % 256) + v.toNat / 256 := by rw [Nat.shiftLeft_eq, Nat.mul_comm]

/-! ### The two transactions -/

theorem buildTat_video (s : State) : s.buildTat.video = { s.video with tat := some (tatTable s.cfg.geo) } := rfl

theorem buildPal_video (s : State) : s.buildPal.video = { s.video with palx := some (palxTable s.cfg s.load) } := rfl

theorem State.tatAt_congr {s t : State} (h : t.video = s.video) (r q : Nat) : t.tatAt r q = s.tatAt r q := by
  simp only [State.tatAt, h]

theorem State.palxAt_congr {s t : State} (hc : t.cfg = s.cfg) (h : t.video = s.video) (g e : Nat) :
    t.palxAt g e = s.palxAt g e := by
  simp only [State.palxAt, hc, h]

theorem whole_buildTat_tatAt (h : tasInRange s.cfg.geo = true) {r q : Nat} (hr : r < s.cfg.geo.nrows)
    (hq : q < s.cfg.geo.ncols) : ((whole State.buildTat s).tatAt r q : Int) = tas s.cfg.geo r q := by
  rw [State.tatAt_congr (whole_video _ s), buildTat_tatAt _ (by simpa using hr) (by simpa using hq), State.beginOp_cfg,
    Int.toNat_of_nonneg (tas_nonneg_of_inRange h hr hq)]

theorem whole_buildPal_palxAt (s : State) {g e : Nat} (hg : g < s.cfg.ngroups) (he : e < s.cfg.spr.groupLen) :
    (whole State.buildPal s).palxAt g e = palTransform s.cfg.spr.palXform (s.load.palEntry s.cfg g e) := by
  rw [State.palxAt_congr (by simp [whole]) (whole_video _ s), buildPal_palxAt _ (by simpa using hg) (by simpa using he),
    State.beginOp_cfg, State.beginOp_load]

end Sys2Proof.Machine

open Sys2Proof Sys2Proof.Machine

/-- Settles O24: at P0 the scramble has an inverse (`tas_p0_eq_iff`) on all offsets but the sixteen. -/
theorem scrambleRangesAndInjective : Obligations.ScrambleRangesAndInjective := by
  refine ⟨fun _ _ => tas_p0_ranges, fun r q r' q' hr hq hr' hq' heq => ?_, fun v hv => ?_⟩
  · obtain ⟨v, hv, htas⟩ := exists_tas_p0_eq hr hq
    obtain ⟨-, rfl, rfl⟩ := (tas_p0_eq_iff hr hq hv).1 htas
    obtain ⟨-, rfl, rfl⟩ := (tas_p0_eq_iff hr' hq' hv).1 (heq ▸ htas)
    exact ⟨rfl, rfl⟩
  · rw [← unusedAtP0_iff hv]
    constructor
    · rintro ⟨r, q, hr, hq, htas⟩
      exact ((tas_p0_eq_iff hr hq hv).1 htas).1
    · intro hused
      have hrow := rowAtP0_lt hv
      have hcol := colAtP0_lt hv hused
      exact ⟨rowAtP0 v, colAtP0 v, hrow, hcol, (tas_p0_eq_iff hrow hcol hv).2 ⟨hused, rfl, rfl⟩⟩

/-- Settles O23: the work of `TAT_BUILD` is `State.buildTat`, whose entries are the scramble function's. -/
theorem tatBuild : Obligations.TatBuild := by
  intro s hs
  have hwrites : WritesVideo State.buildTat := fun _ => rfl
  exact ⟨whole State.buildTat s, exec_int rfl hs (by simp [conditionsOf]), whole_videoOnly hwrites s,
    whole_putsOut_nil hwrites s, whole_endsWith_ok hwrites s, by simp [buildTat_video], by simp,
    fun hrange r q hr hq => (whole_buildTat_tatAt hrange hr hq).trans (tas_eq s.cfg.geo r q)⟩

/-- Settles O25: the work of `PAL_BUILD` is `State.buildPal`, whose entries are the palette's, transformed. -/
theorem palBuild : Obligations.PalBuild := by
  intro s hs
  have hwrites : WritesVideo State.buildPal := fun _ => rfl
  refine ⟨fun hshape => ⟨whole State.buildPal s, exec_int rfl hs (by simpa [conditionsOf, palShape] using hshape),
    whole_videoOnly hwrites s, whole_putsOut_nil hwrites s, whole_endsWith_ok hwrites s, by simp [buildPal_video], by simp,
    fun g e hg he => ⟨fun hswap => ?_, fun hid => ?_⟩⟩, fun hshape => ?_⟩
  · rw [whole_buildPal_palxAt s hg he, hswap, palTransform_swap16_toNat]
  · rw [whole_buildPal_palxAt s hg he, hid, palTransform]
  · obtain ⟨hfault, hopen⟩ := intReady_iff.1 hs
    have hrefused : refusal .int (conditionsOf .palBuild s) s = some .notLoaded := by
      rw [refusal_of_open hfault hopen]
      simp [conditionsOf, palShape, hshape]
    exact ⟨s.refuse .notLoaded, exec_refused hrefused, refuse_blockSame s _, rfl⟩
end

section
/-! The tile pass, place by place (42_tile_scrambler.md R175). -/

namespace Sys2Proof.Machine

open Sys2Proof

variable {s : State}

/-- R175 at pixel `px` of tile column `q`: the division of the place by `TILE_W` gives back the column and the pixel. -/
theorem tilePixel_getD (s : State) (b : Nat) {q l px : Nat} (hq : q < s.cfg.geo.ncols) (hl : l < s.cfg.geo.tileH)
    (hpx : px < s.cfg.geo.tileW) (old : Half) :
    (s.tilePixel b l (s.cfg.geo.tileW * q + px)).getD old = s.tileOver b q l px old := by
  have hdiv : (s.cfg.geo.tileW * q + px) / s.cfg.geo.tileW = q := by
    rw [Nat.mul_add_div (by omega), Nat.div_eq_of_lt hpx, Nat.add_zero]
  have hmod : (s.cfg.geo.tileW * q + px) % s.cfg.geo.tileW = px := by
    rw [Nat.mul_add_mod, Nat.mod_eq_of_lt hpx]
  simp only [State.tilePixel, hdiv, hmod, hq, hl, and_self, if_true, ne_eq, ite_not, apply_ite (Option.getD · old),
    Option.getD_some, Option.getD_none]
  rfl

theorem mul_add_lt_width {c : Params} {q px : Nat} (hq : q < c.geo.ncols) (hpx : px < c.geo.tileW) :
    c.geo.tileW * q + px < c.width :=
  calc c.geo.tileW * q + px < c.geo.tileW * (q + 1) := by rw [Nat.mul_succ]; omega
    _ ≤ c.width := Nat.mul_le_mul_left _ hq

/-- A band operation is not refused for its operands, its tables or its buffer (60_exceptions.md R348). -/
theorem bandRefusals_eq_false {k b : Byte} {missing : Bool} (hk : k.toNat ≤ 1) (hb : b.toNat < s.cfg.nbands)
    (hm : missing = false) (ho : s.owner k.toNat ≠ .inflight) : ∀ x ∈ s.bandRefusals missing k b, x.1 = false := by
  simp [State.bandRefusals, hk, hb, hm, ho]

theorem setBand_video (s : State) (k : Nat) (b : Band) : (s.setBand k b).video =
    { s.video with buf0 := (s.setBand k b).video.buf0, buf1 := (s.setBand k b).video.buf1 } := by
  unfold State.setBand; split <;> rfl

theorem setBand_writesVideo (k : Nat) (b : State → Band) : WritesVideo fun s => s.setBand k (b s) := by
  intro s
  dsimp only
  unfold State.setBand; split <;> rfl

/-- An operation that writes nothing of the renderer's state but a band buffer. -/
theorem VideoOnly.buffersOnly {t : State} (h : VideoOnly s t)
    (hv : t.video = { s.video with buf0 := t.video.buf0, buf1 := t.video.buf1 }) : BuffersOnly s t := by
  obtain ⟨hstate, hbytes⟩ := h
  rw [hv] at hstate
  exact ⟨hstate, hbytes⟩

theorem drawTiles_writesVideo (k b : Nat) : WritesVideo fun s => s.drawTiles k b := setBand_writesVideo k _

theorem drawTiles_video (s : State) (k b : Nat) : (s.drawTiles k b).video =
    { s.video with buf0 := (s.drawTiles k b).video.buf0, buf1 := (s.drawTiles k b).video.buf1 } := setBand_video s k _

theorem drawTiles_band_other (s : State) {k j : Nat} (b : Nat) (h : ¬(k = 0 ↔ j = 0)) :
    (s.drawTiles k b).band j = s.band j := State.band_setBand_other _ _ _ _ h

/-- What `TILE_PASS` leaves at a place of its buffer. -/
theorem drawTiles_pixel (hs : BandsOk s) (k b : Nat) {l x : Nat} (hl : l < s.cfg.geo.bandLines) (hx : x < s.cfg.width) :
    (s.drawTiles k b).pixel k l x = (s.tilePixel b l x).getD (s.pixel k l x) := by
  rw [State.pixel, State.drawTiles, State.band_setBand_same]
  exact drawOver_getD _ (hs.shaped k) hl hx

theorem State.pixel_congr {t : State} (h : t.video = s.video) (k l x : Nat) : t.pixel k l x = s.pixel k l x := by
  simp only [State.pixel, State.band_congr h]

end Sys2Proof.Machine

open Sys2Proof Sys2Proof.Machine

/-- Settles O28: the pass leaves at a place the word of `State.tilePixel`, if there is one, or the old word (`drawTiles_pixel`); at
pixel `px` of tile column `q` that is R175 (`tilePixel_getD`). -/
theorem tilePass : Obligations.TilePass := by
  intro s k b hs hbands hlines hk hb hbuilt howner
  have hwrites := drawTiles_writesVideo k.toNat b.toNat
  have hvideo := whole_video (fun s => s.drawTiles k.toNat b.toNat) s
  have hbegun : s.beginOp.tilePixel = s.tilePixel := tilePixel_congr (by simp) (by simp) (by simp) (by simp) (by simp)
  refine ⟨whole (fun s => s.drawTiles k.toNat b.toNat) s, exec_int rfl hs (bandRefusals_eq_false hk hb hbuilt howner),
    (whole_videoOnly hwrites s).buffersOnly ?_, whole_putsOut_nil hwrites s, whole_endsWith_ok hwrites s,
    fun j hj hne => ?_, fun q l px hq hl hpx => ?_⟩
  · rw [hvideo, ← State.beginOp_video s]
    exact drawTiles_video ..
  · rw [State.band_congr hvideo, drawTiles_band_other _ _ (by omega), State.band_congr (State.beginOp_video s)]
  · have hline : l < s.beginOp.cfg.geo.bandLines := by simpa [← hlines] using hl
    have hcolumn : s.cfg.geo.tileW * q + px < s.beginOp.cfg.width := by simpa using mul_add_lt_width hq hpx
    rw [State.pixel_congr hvideo, drawTiles_pixel ((beginOp_rangesKept s).bands hbands) _ _ hline hcolumn, hbegun,
      State.pixel_congr (State.beginOp_video s), tilePixel_getD s _ hq hl hpx]
end

section
/-! The operations of the synthesizer write the voices and put out what they render; around that they are operations complete in one
step (60_exceptions.md R341, R347). -/

namespace Sys2Proof.Machine

open Sys2Proof

variable {s : State} {f : State → State}

@[simp] theorem whole_voices (f : State → State) (s : State) : (whole f s).voices = (f s.beginOp).voices :=
  State.finishOp_voices _

/-- The work of the operation is on the voices and the run's outputs alone. -/
def WritesVoices (f : State → State) : Prop := ∀ s : State, f s = { s with voices := (f s).voices, env := (f s).env }

theorem whole_voicesOnly (hf : WritesVoices f) (s : State) : VoicesOnly s (whole f s) := by
  have hstate : whole f s = { s with voices := (whole f s).voices, env := (whole f s).env } :=
    calc whole f s = { f s.beginOp with env := (whole f s).env } := State.finishOp_eq _
      _ = { s.beginOp with voices := (f s.beginOp).voices, env := (whole f s).env } := by rw [hf s.beginOp]
      _ = { s with voices := (whole f s).voices, env := (whole f s).env } := by simp
  exact ⟨hstate, State.byteAt_congr (congrArg (·.mio.blk) hstate)⟩

/-- An operation puts out what its work puts out. -/
theorem whole_putsOut {l : List Obs} (h : PutsOut s.beginOp (f s.beginOp) l) : PutsOut s (whole f s) l := by
  simpa [PutsOut, whole] using h

/-- HOST's operation ends with the last status its work raises, or with `OK`. -/
theorem whole_endsWith {l : List Status} (ha : (f s.beginOp).env.agent = s.env.agent)
    (hst : (f s.beginOp).env.st = s.beginOp.env.st ++ l) : EndsWith s (whole f s) (l.getLastD .ok) := by
  intro hhost
  rw [beginOp_st, if_pos hhost, List.nil_append] at hst
  simp [whole, State.finishOp, State.byHost, ha, hhost, hst]

/-- ORCH's operation adds to the tick's list what its work raises. -/
theorem whole_st_of_orch {l : List Status} (horch : s.env.agent = .orch)
    (hst : (f s.beginOp).env.st = s.beginOp.env.st ++ l) : (whole f s).env.st = s.env.st ++ l := by
  simp [whole, hst, beginOp_st, horch]

/-! ### The beginning of an operation is none of the synthesizer's business -/

theorem renderSamples_beginOp (s : State) (n : Nat) : s.beginOp.renderSamples n = s.renderSamples n := by
  simp [State.renderSamples]

theorem parseVoice_beginOp (s : State) (v : Fin 3) : s.beginOp.parseVoice v = s.parseVoice v := by
  rw [State.beginOp_eq s]
  rfl

end Sys2Proof.Machine
end

section
/-! Rendering in closed form (44_wavetable_synth.md R235, R236, R238). -/

namespace Sys2Proof.Machine

open Sys2Proof

variable {s : State}

/-- `n` advances of a phase of `PHASE_W` bits are one advance by `n` times the frequency (R238). -/
theorem renderVoices_get {c : SynthParams} {vs : Vector Voice 3} {v : Fin 3} (h : (vs[v]).phase < 2 ^ c.phaseW) (n : Nat) :
    (renderVoices c n vs)[v] = { vs[v] with phase := ((vs[v]).phase + n * (vs[v]).freq.toNat) % 2 ^ c.phaseW } := by
  induction n generalizing vs with
  | zero =>
    rw [Nat.zero_mul, Nat.add_zero, Nat.mod_eq_of_lt h]
    rfl
  | succ n ih =>
    have hlt : ((sampleVoices c vs)[v]).phase < 2 ^ c.phaseW := by
      rw [sampleVoices_get]
      exact Nat.mod_lt _ (Nat.two_pow_pos _)
    have hsum (p q : Nat) : p + q + n * q = p + (n + 1) * q := by ring
    rw [renderVoices, ih hlt, sampleVoices_get]
    simp only [advancePhase, Nat.mod_add_mod, hsum]

theorem renderVoices_eq_phaseAfter (h : VoicesOk s) (n : Nat) (v : Fin 3) :
    (renderVoices s.cfg.wsg n s.voices)[v] = { s.voices[v] with phase := s.phaseAfter v n } :=
  renderVoices_get (h v).1 n

theorem mixSum_eq_sum (c : Params) (t : LoadTables) (vs : Vector Voice 3) :
    mixSum c t vs = ((List.finRange 3).map fun v => voiceTerm c t vs[v]).sum := by
  simp [mixSum, List.finRange_succ, add_assoc]

/-- The mix `n` samples from here is that of the phases advanced by `n` times their frequency. -/
theorem mixSum_renderVoices (h : VoicesOk s) (n : Nat) :
    mixSum s.cfg s.load (renderVoices s.cfg.wsg n s.voices) = s.sumAfter n := by
  simp only [mixSum_eq_sum, renderVoices_eq_phaseAfter h]
  rfl

theorem renderSamples_getD (h : VoicesOk s) {n i : Nat} (hi : i < n) :
    (s.renderSamples n).getD i 0#16 = toU16 (mixOut s.cfg.wsg (s.sumAfter i)) := by
  rw [List.getD_eq_getElem?_getD, State.renderSamples, renderOut_getElem? _ _ _ _ _ hi, Option.getD_some, sampleOut,
    mixSum_renderVoices h]

/-- The work of `SND_RENDER n`. -/
def renderWork (n : Nat) (s : State) : State := (s.advanceVoices n).answerSamples (s.renderSamples n)

theorem renderWork_writesVoices (n : Nat) : WritesVoices (renderWork n) := fun _ => rfl

theorem exec_sndRender (hs : IntReady s) (n : Half) : exec (.sndRender n) s = .next (whole (renderWork n.toNat) s) :=
  exec_int rfl hs (by simp [conditionsOf])

end Sys2Proof.Machine

open Sys2Proof Sys2Proof.Machine

/-- Settles O39: the `i`-th sample is the mix of the voices after `i` samples (`renderSamples_getD`), which differ from the voices now
in the phase only (`renderVoices_eq_phaseAfter`). -/
theorem soundRender : Obligations.SoundRender := by
  intro s n hs hvoices
  refine ⟨whole (renderWork n.toNat) s, s.renderSamples n.toNat, exec_sndRender hs n,
    whole_voicesOnly (renderWork_writesVoices _) s, whole_putsOut ?_, whole_endsWith (l := []) ?_ ?_, ?_, renderOut_length ..,
    fun i hi => ?_, fun v => ?_⟩
  · simp [PutsOut, renderWork, renderSamples_beginOp]
  · simp [renderWork]
  · simp [renderWork]
  · simp [whole, renderWork, renderSamples_beginOp]
  · rw [renderSamples_getD hvoices hi]
    exact ⟨rfl, toU16_toNat _⟩
  · rw [← renderVoices_eq_phaseAfter hvoices]
    simp [renderWork]
end

section
/-! The refill of AUD (44_wavetable_synth.md R240, R241). -/

namespace Sys2Proof.Machine

open Sys2Proof

/-- What a refill raises: a status for a slice AUD does not take. -/
def State.refillStatuses (s : State) : List Status :=
  if s.env.platform.audRoom then [] else [.audioDropped s.cfg.wsg.audioSlice]

theorem refillAudio_st (s : State) : s.refillAudio.env.st = s.env.st ++ s.refillStatuses := by
  unfold State.refillAudio State.refillStatuses
  split <;> simp

theorem refillAudio_writesVoices : WritesVoices State.refillAudio := by
  intro s
  unfold State.refillAudio
  split <;> rfl

end Sys2Proof.Machine

open Sys2Proof Sys2Proof.Machine

/-- Settles O42: the work of `AUDIO_REFILL` is `State.refillAudio`, and what that raises is `State.refillStatuses`. -/
theorem audioRefill : Obligations.AudioRefill := by
  intro s hs
  have hst : s.beginOp.refillAudio.env.st = s.beginOp.env.st ++ s.refillStatuses := by
    simpa [State.refillStatuses] using refillAudio_st s.beginOp
  have hends : EndsWith s (whole State.refillAudio s) (s.refillStatuses.getLastD .ok) := whole_endsWith (by simp) hst
  refine ⟨whole State.refillAudio s, exec_int rfl hs (by simp [conditionsOf]), whole_voicesOnly refillAudio_writesVoices s,
    by simp, whole_putsOut ?_, fun hroom => ?_, fun hfull => ⟨?_, fun horch => ?_⟩⟩
  · simp [PutsOut, State.renderSamples]
  · simpa [State.refillStatuses, hroom] using hends
  · simpa [State.refillStatuses, hfull] using hends
  · simpa [State.refillStatuses, hfull] using whole_st_of_orch horch hst
end

section
/-! The mix at P0 (44_wavetable_synth.md R237). -/

namespace Sys2Proof.Machine

open Sys2Proof

variable {c : Params}

/-- A sample of a voice is that of `SILENT`, which is 0, or one of 8 bits (10_state.md R41). -/
theorem waveSample_bounds_p0 (hc : c.wsg = p0Wsg) (t : LoadTables) (w : Wave) (i : Nat) :
    -128 ≤ waveSample c t w i ∧ waveSample c t w i ≤ 127 := by
  cases w with
  | silent => simp [waveSample]
  | wave n =>
    have h := sampleAt_bounds c t n.toNat i
    rw [hc] at h
    simp only [waveSample, p0Wsg] at h ⊢
    omega

theorem voiceTerm_of_silent {v : Voice} (h : v.wave = .silent) (t : LoadTables) : voiceTerm c t v = 0 := by
  simp [voiceTerm, waveSample, h]

theorem voiceTerm_bounds_p0 (hc : c.wsg = p0Wsg) (t : LoadTables) (v : Voice) :
    -1920 ≤ voiceTerm c t v ∧ voiceTerm c t v ≤ 1905 := by
  obtain ⟨hlo, hhi⟩ := waveSample_bounds_p0 hc t v.wave (waveIndex c.wsg v.phase)
  have hvol : (v.vol.toNat : Int) ≤ 15 := by omega
  rw [voiceTerm]
  constructor <;> nlinarith

theorem mixSum_bounds_p0 (hc : c.wsg = p0Wsg) (t : LoadTables) (vs : Vector Voice 3) :
    -5760 ≤ mixSum c t vs ∧ mixSum c t vs ≤ 5715 := by
  have h0 := voiceTerm_bounds_p0 hc t vs[0]
  have h1 := voiceTerm_bounds_p0 hc t vs[1]
  have h2 := voiceTerm_bounds_p0 hc t vs[2]
  rw [mixSum]
  omega

/-- The clamp and the bias of P0 keep every sum within the `u16` range. -/
theorem mixOut_bounds_p0 (m : Int) : 0 ≤ mixOut p0Wsg m ∧ mixOut p0Wsg m ≤ 65535 := by
  simp only [mixOut, p0Wsg]
  omega

theorem sampleOut_toNat_p0 (hc : c.wsg = p0Wsg) (t : LoadTables) (vs : Vector Voice 3) :
    ((sampleOut c t vs).toNat : Int) = mixOut p0Wsg (mixSum c t vs) := by
  obtain ⟨hlo, hhi⟩ := mixOut_bounds_p0 (mixSum c t vs)
  rw [sampleOut, hc, toU16_toNat _ hlo hhi]

theorem mixSum_of_silent {vs : Vector Voice 3} (h : ∀ v : Fin 3, (vs[v]).wave = .silent) (t : LoadTables) :
    mixSum c t vs = 0 := by
  have hterm (v : Fin 3) : voiceTerm c t vs[v] = 0 := voiceTerm_of_silent (h v) t
  simp only [mixSum_eq_sum, hterm]
  rfl

end Sys2Proof.Machine

open Sys2Proof Sys2Proof.Machine

/-- Settles O40: a volume is at most 15 and a sample has 8 bits, so each term, their sum, its gain and its clamp lie in the bounds. -/
theorem mixStaysInRange : Obligations.MixStaysInRange := by
  intro c t vs hc
  obtain ⟨hlo, hhi⟩ := mixSum_bounds_p0 hc t vs
  refine ⟨fun v => ?_, ⟨hlo, hhi⟩, by omega, sampleOut_toNat_p0 hc t vs, fun hsilent => ?_⟩
  · obtain ⟨hvlo, hvhi⟩ := voiceTerm_bounds_p0 hc t v
    exact ⟨hvlo, hvhi, fun hv => voiceTerm_of_silent hv t⟩
  · rw [sampleOut, hc, mixSum_of_silent hsilent]
    decide
end

section
/-! The width of an accumulator (44_wavetable_synth.md R239): a sample reads bits `[17:0]` of a phase, and an advance in any width of
at least 18 bits is an advance of these bits. -/

namespace Sys2Proof.Machine

open Sys2Proof

variable {vs us : Vector Voice 3}

/-- The voices differ at most in phase bits above `[17:0]`. -/
def SameLowPhases (vs us : Vector Voice 3) : Prop :=
  ∀ v : Fin 3, us[v] = { vs[v] with phase := (us[v]).phase } ∧ (us[v]).phase % 2 ^ 18 = (vs[v]).phase % 2 ^ 18

/-- `(phase >> 13) & 31` is bits `[17:13]`. -/
theorem waveIndex_eq_low {c : SynthParams} (hshift : c.phaseShift = 13) (hmask : c.idxMask = 0x1F) (p : Nat) :
    waveIndex c p = p % 2 ^ 18 / 2 ^ 13 := by
  have hand : p >>> 13 &&& 0x1F = (p >>> 13) % 2 ^ 5 := Nat.and_two_pow_sub_one_eq_mod _ 5
  rw [waveIndex, hshift, hmask, hand, Nat.shiftRight_eq_div_pow]
  omega

theorem advancePhase_low {c : SynthParams} (hw : 18 ≤ c.phaseW) (v : Voice) :
    (advancePhase c v).phase % 2 ^ 18 = (v.phase % 2 ^ 18 + v.freq.toNat) % 2 ^ 18 := by
  rw [advancePhase, Nat.mod_mod_of_dvd _ (Nat.pow_dvd_pow 2 hw), Nat.mod_add_mod]

/-- One sample in two widths. -/
theorem SameLowPhases.after_sample {c d : SynthParams} (hc : 18 ≤ c.phaseW) (hd : 18 ≤ d.phaseW) (h : SameLowPhases vs us) :
    SameLowPhases (sampleVoices c vs) (sampleVoices d us) := by
  intro v
  obtain ⟨hv, hlow⟩ := h v
  rw [sampleVoices_get, sampleVoices_get, advancePhase_low hc, advancePhase_low hd, hlow]
  exact ⟨by rw [hv]; rfl, by rw [hv]⟩

theorem SameLowPhases.voiceTerm_eq {c : Params} (hshift : c.wsg.phaseShift = 13) (hmask : c.wsg.idxMask = 0x1F)
    (h : SameLowPhases vs us) (t : LoadTables) (v : Fin 3) : voiceTerm c t us[v] = voiceTerm c t vs[v] := by
  obtain ⟨hv, hlow⟩ := h v
  rw [voiceTerm, voiceTerm, waveIndex_eq_low hshift hmask, waveIndex_eq_low hshift hmask, hlow, hv]

/-- The parameter record with accumulators of `w` bits. -/
def withPhaseW (c : Params) (w : Nat) : Params := { c with wsg := { c.wsg with phaseW := w } }

/-- A sample does not read the width. -/
theorem sampleOut_withPhaseW (c : Params) (w : Nat) (t : LoadTables) (vs : Vector Voice 3) :
    sampleOut (withPhaseW c w) t vs = sampleOut c t vs := rfl

theorem SameLowPhases.sampleOut_eq {c : Params} (hshift : c.wsg.phaseShift = 13) (hmask : c.wsg.idxMask = 0x1F)
    (h : SameLowPhases vs us) (t : LoadTables) : sampleOut c t us = sampleOut c t vs := by
  simp only [sampleOut, mixSum_eq_sum, h.voiceTerm_eq hshift hmask]

theorem SameLowPhases.renderOut_eq {c : Params} {w : Nat} (hshift : c.wsg.phaseShift = 13) (hmask : c.wsg.idxMask = 0x1F)
    (hc : 18 ≤ c.wsg.phaseW) (hw : 18 ≤ w) (h : SameLowPhases vs us) (t : LoadTables) (n : Nat) :
    renderOut (withPhaseW c w) t n us = renderOut c t n vs := by
  induction n generalizing vs us with
  | zero => rfl
  | succ n ih =>
    rw [renderOut, renderOut, sampleOut_withPhaseW, h.sampleOut_eq hshift hmask, ih (h.after_sample hc hw)]

end Sys2Proof.Machine

open Sys2Proof Sys2Proof.Machine

/-- Settles O41: each sample keeps the voices equal in bits `[17:0]` of the phase (`SameLowPhases`), which is what the next reads. -/
theorem samplesDoNotDependOnPhaseWidth : Obligations.SamplesDoNotDependOnPhaseWidth :=
  fun _ _ t n _ _ hshift hmask hc hw h => SameLowPhases.renderOut_eq hshift hmask hc hw h t n
end

section
/-! The sound registers' fields (30_encoding.md R111) and the parse of the voices (44_wavetable_synth.md R233, R234). -/

namespace Sys2Proof.Machine

open Sys2Proof

variable {s : State}

theorem State.nibble_toNat (s : State) (i : Nat) :
    (s.nibble i).toNat = if i < s.cfg.map.sndSize then (s.sndAt i).toNat % 16 else (Config.noNibble i).toNat := by
  unfold State.nibble
  split <;> simp

/-- A nibble that is put above every bit of a word is added at its weight. -/
theorem or_shiftLeft_toNat {acc : BitVec 20} {k : Nat} (x : BitVec 4) (hk : k ≤ 16) (hacc : acc.toNat < 2 ^ k) :
    (acc ||| x.setWidth 20 <<< k).toNat = acc.toNat + 2 ^ k * x.toNat := by
  have hx : 2 ^ k * x.toNat < 2 ^ 20 :=
    calc 2 ^ k * x.toNat < 2 ^ k * 2 ^ 4 := Nat.mul_lt_mul_of_pos_left x.isLt (Nat.two_pow_pos k)
      _ = 2 ^ (k + 4) := (Nat.pow_add 2 k 4).symm
      _ ≤ 2 ^ 20 := Nat.pow_le_pow_right (by decide) (by omega)
  have hplaced : (x.setWidth 20 <<< k).toNat = 2 ^ k * x.toNat := by
    rw [BitVec.toNat_shiftLeft, BitVec.toNat_setWidth_of_le (by decide), Nat.shiftLeft_eq, Nat.mul_comm,
      Nat.mod_eq_of_lt hx]
  rw [BitVec.toNat_or, hplaced, Nat.or_comm, ← Nat.two_pow_add_eq_or_of_lt hacc, Nat.add_comm]

/-- Each frequency nibble stands within the 20 bits and above those before it. -/
def NibblesApart (l : List (Nat × Nat)) : Prop := (∀ x ∈ l, x.2 ≤ 16) ∧ l.Pairwise fun x y => x.2 + 4 ≤ y.2

/-- Nibbles that stand apart are added at their weights. -/
theorem foldl_nibbles_toNat {l : List (Nat × Nat)} (hl : NibblesApart l) {acc : BitVec 20} (hacc : ∀ x ∈ l, acc.toNat < 2 ^ x.2) :
    (l.foldl (fun acc x => acc ||| ((s.nibble x.1).setWidth 20 <<< x.2)) acc).toNat =
      acc.toNat + (l.map fun x => 2 ^ x.2 * (s.nibble x.1).toNat).sum := by
  induction l generalizing acc with
  | nil => rfl
  | cons x l ih =>
    obtain ⟨hroom, hpair⟩ := hl
    obtain ⟨hroomx, hrooml⟩ := List.forall_mem_cons.1 hroom
    obtain ⟨hapart, hpairl⟩ := List.pairwise_cons.1 hpair
    have hadd := or_shiftLeft_toNat (s.nibble x.1) hroomx (hacc x List.mem_cons_self)
    have hnext : ∀ y ∈ l, (acc ||| ((s.nibble x.1).setWidth 20 <<< x.2)).toNat < 2 ^ y.2 := fun y hy =>
      calc _ = acc.toNat + 2 ^ x.2 * (s.nibble x.1).toNat := hadd
        _ < 2 ^ x.2 * 2 ^ 4 := by
          have := hacc x List.mem_cons_self
          have := (s.nibble x.1).isLt
          nlinarith
        _ = 2 ^ (x.2 + 4) := (Nat.pow_add 2 x.2 4).symm
        _ ≤ 2 ^ y.2 := Nat.pow_le_pow_right (by decide) (hapart y hy)
    rw [List.foldl_cons, ih ⟨hrooml, hpairl⟩ hnext, hadd, List.map_cons, List.sum_cons, Nat.add_assoc]

theorem freqField_toNat {v : Fin 3} (h : NibblesApart (s.voiceRegs v).freq) :
    (s.freqField v).toNat = ((s.voiceRegs v).freq.map fun x => 2 ^ x.2 * (s.nibble x.1).toNat).sum := by
  rw [State.freqField, foldl_nibbles_toNat h fun _ _ => by simp]
  simp

theorem voiceRegs_p0 (hc : s.cfg.wsg = p0Wsg) (v : Fin 3) : s.voiceRegs v = p0Wsg.voices[v] := by rw [State.voiceRegs, hc]

theorem nibblesApart_p0 (v : Fin 3) : NibblesApart (p0Wsg.voices[v]).freq := by
  revert v
  unfold NibblesApart
  decide

theorem freqField_p0 (hc : s.cfg.wsg = p0Wsg) (v : Fin 3) :
    (s.freqField v).toNat = ((p0Wsg.voices[v]).freq.map fun x => 2 ^ x.2 * (s.nibble x.1).toNat).sum := by
  rw [freqField_toNat (by rw [voiceRegs_p0 hc]; exact nibblesApart_p0 v), voiceRegs_p0 hc]

theorem parseVoice_of_muted {v : Fin 3} (h : s.volField v = 0#4) :
    s.parseVoice v = { s.voices[v] with vol := 0#4, freq := 0#20, wave := .silent } := if_pos h

theorem parseVoice_of_audible {v : Fin 3} (h : s.volField v ≠ 0#4) :
    s.parseVoice v = { s.voices[v] with vol := s.volField v, freq := s.freqField v, wave := .wave (s.waveField v) } := if_neg h

theorem parseVoice_vol (s : State) (v : Fin 3) : (s.parseVoice v).vol = s.volField v := by
  by_cases h : s.volField v = 0#4
  · rw [parseVoice_of_muted h, h]
  · rw [parseVoice_of_audible h]

theorem parseSound_writesVoices : WritesVoices State.parseSound := fun _ => rfl

/-- `SND_PARSE` leaves in every voice what a parse of this state gives. -/
theorem whole_parseSound_voices_get (s : State) (v : Fin 3) : (whole State.parseSound s).voices[v] = s.parseVoice v := by
  rw [whole_voices, parseSound_voices_get, parseVoice_beginOp]

end Sys2Proof.Machine

open Sys2Proof Sys2Proof.Machine

/-- Settles O38: the voices are those of `State.parseVoice`, and at P0 the fields it reads are sums of the nibbles (`freqField_p0`). -/
theorem soundParse : Obligations.SoundParse := by
  intro s hs hc
  simp only [← State.nibble_toNat]
  refine ⟨whole State.parseSound s, exec_int rfl hs (by simp [conditionsOf]), whole_voicesOnly parseSound_writesVoices s,
    whole_putsOut (by simp [PutsOut]), whole_endsWith (l := []) (by simp) (by simp), fun v => ?_, fun v vol wave f hfield => ?_⟩
  · rw [whole_parseSound_voices_get]
    exact (parseVoice_ok s v).1
  · have hfields : s.volField v = s.nibble vol ∧ s.waveField v = s.nibble wave ∧ (s.freqField v).toNat = f := by
      rw [State.volField, State.waveField, voiceRegs_p0 hc, freqField_p0 hc]
      rcases hfield with ⟨rfl, rfl, rfl, rfl⟩ | ⟨rfl, rfl, rfl, rfl⟩ | ⟨rfl, rfl, rfl, rfl⟩ <;>
        exact ⟨rfl, rfl, by simp [p0Wsg, p0Voice0, p0Voice1, p0Voice2, Nat.add_assoc]⟩
    obtain ⟨hvol, hwave, hfreq⟩ := hfields
    have hzero : (s.nibble vol).toNat = 0 ↔ s.volField v = 0#4 := by rw [hvol, BitVec.toNat_eq]; rfl
    rw [whole_parseSound_voices_get, ne_eq, hzero]
    refine ⟨by rw [parseVoice_vol, hvol], fun hmuted => ?_, fun haudible => ?_⟩
    · rw [parseVoice_of_muted hmuted]
      exact ⟨rfl, rfl⟩
    · rw [parseVoice_of_audible haudible]
      exact ⟨hfreq, by simp [hwave]⟩
end

section
/-! What the two transactions do whose effect depends on the state: the equations of `effectOf` for `ATTRACT` and `PACE`
(45_frame_orchestrator.md R280, R284). -/

namespace Sys2Proof.Machine

open Sys2Proof

/-- The detector's step decides whether the cutscene begins or the operation ends. -/
theorem effectOf_attract (s : State) : effectOf .attract s =
    if s.beginOp.stepDetector.orch.cutDue then s.beginOp.stepDetector.enterCutscene.setHostOp s.byHost
    else s.beginOp.stepDetector.finishOp := rfl

theorem effectOf_pace (s : State) : effectOf .pace s =
    if s.byHost && !s.early then s.begin.finish else s.beginLong.enterPace := rfl

end Sys2Proof.Machine
end

section
/-! A step with no word presented (45_frame_orchestrator.md R261), and the inspection surface (R290 to R292). -/

namespace Sys2Proof.Machine

open Sys2Proof

variable {s t : State}

theorem creditReset_byteAt (h : MemoryOk s) (off : Nat) : s.creditReset.byteAt off =
    if off = s.cfg.orch.creditOffA ∨ off = s.cfg.orch.creditOffB then 0#8 else s.byteAt off := by
  have hA := s.setByte_memoryOk h s.cfg.orch.creditOffA 0#8
  unfold State.creditReset
  by_cases hoffB : off = s.cfg.orch.creditOffB
  · rw [if_pos (.inr hoffB), hoffB]
    exact State.byteAt_setByte_same _ hA _ _
  · rw [State.byteAt_setByte_other _ _ _ _ hoffB]
    by_cases hoffA : off = s.cfg.orch.creditOffA
    · rw [if_pos (.inl hoffA), hoffA]
      exact State.byteAt_setByte_same _ h _ _
    · rw [if_neg (not_or.2 ⟨hoffA, hoffB⟩)]
      exact State.byteAt_setByte_other _ _ _ _ hoffA

/-- The two credit bytes are 0, and no other byte has changed (R292). -/
def CreditsCleared (s t : State) : Prop :=
  t.byteAt s.cfg.orch.creditOffA = 0#8 ∧ t.byteAt s.cfg.orch.creditOffB = 0#8 ∧
    ∀ off, off ≠ s.cfg.orch.creditOffA → off ≠ s.cfg.orch.creditOffB → t.byteAt off = s.byteAt off

theorem creditsCleared_of_blk (h : MemoryOk s) (hblk : t.mio.blk = s.creditReset.mio.blk) : CreditsCleared s t := by
  have hbyte (off : Nat) := (State.byteAt_congr hblk off).trans (creditReset_byteAt h off)
  exact ⟨(hbyte _).trans (if_pos (.inl rfl)), (hbyte _).trans (if_pos (.inr rfl)),
    fun off hA hB => (hbyte off).trans (if_neg (not_or.2 ⟨hA, hB⟩))⟩

end Sys2Proof.Machine

open Sys2Proof Sys2Proof.Machine

/-- Settles O7: with no word presented a step is ORCH's own, or the levels change. -/
theorem stepWithoutWord : Obligations.StepWithoutWord := by
  refine fun s p rest => ⟨step_free, fun hturn => ?_, fun hlevels => ?_⟩
  · simp [step, advance, hturn]
  · simp [step, advance, hlevels, State.setInputs, State.setPlatform]

/-- Settles O17: an admitted inspection is refused for its offset only. -/
theorem inspectionAccess : Obligations.InspectionAccess := by
  intro s off v hs
  obtain ⟨hfault, hopen⟩ := inspectReady_iff.1 hs
  refine ⟨fun hoff => ?_, fun hoff i hi => ?_⟩
  · have hinside : ∀ x ∈ [(offsetOut s.cfg off, RefusalCode.illegalWord)], x.1 = false := by simpa [offsetOut] using hoff
    refine ⟨⟨_, exec_open (i := .ird off) hfault hopen hinside, ⟨rfl, fun _ => rfl⟩, ⟨rfl, rfl, rfl, rfl, rfl, rfl⟩, rfl, rfl⟩,
      fun hmem => ⟨_, exec_open (i := .iwr off v) hfault hopen hinside, rfl, ?_, fun o ho => ?_, ?_⟩⟩
    · exact State.byteAt_setByte_same s hmem _ _
    · exact State.byteAt_setByte_other s _ _ _ ho
    · exact ⟨⟨(List.append_nil _).symm, rfl, rfl, rfl, rfl, rfl⟩, rfl, rfl⟩
  · have hrefused : refusal .inspect [(offsetOut s.cfg off, .illegalWord)] s = some .illegalWord := by
      rw [refusal_of_open hfault hopen]
      simp [offsetOut, hoff]
    refine ⟨s.refuse .illegalWord, ?_, refuse_blockSame s _, rfl, rfl⟩
    obtain rfl | rfl := hi
    · exact exec_refused hrefused
    · exact exec_refused hrefused

/-- Settles O18: two stores of 0 (`creditReset_byteAt`). -/
theorem creditReset : Obligations.CreditReset := by
  intro s hs hmem
  obtain ⟨hfault, hopen⟩ := creditReady_iff.1 hs
  have hcleared : CreditsCleared s s.creditReset.done := creditsCleared_of_blk hmem rfl
  exact ⟨s.creditReset.done, exec_open hfault hopen (by simp [conditionsOf]), rfl, ⟨by simp [PutsOut], rfl, rfl⟩, hcleared⟩
end

section
/-! ORCH's phase transitions, one equation for each phase (45_frame_orchestrator.md R261). -/

namespace Sys2Proof.Machine

open Sys2Proof

variable {s t u : State}

/-! ### One equation for each phase -/

theorem orchStep_of_reset (h : s.orch.phase = .reset) : orchStep s = .next s := by
  unfold orchStep
  rw [h]

theorem orchStep_of_initFailed (h : s.orch.phase = .initFailed) : orchStep s = .next s := by
  unfold orchStep
  rw [h]

theorem orchStep_of_tickStart (h : s.orch.phase = .tickStart) : orchStep s = exec .tick (s.setAgent .orch) := by
  unfold orchStep
  rw [h]
  rfl

theorem orchStep_of_cpuExec (h : s.orch.phase = .cpuExec) :
    orchStep s = .next (if s.orch.hostOp then s.backToTickStart else (s.setPhase .parse).parseSound) := by
  unfold orchStep
  rw [h]

theorem orchStep_of_parse (h : s.orch.phase = .parse) : orchStep s = .next (s.setPhase .sprPrep).prepSprites := by
  unfold orchStep
  rw [h]

theorem orchStep_of_sprPrep (h : s.orch.phase = .sprPrep) : orchStep s = .next s.enterFrame := by
  unfold orchStep
  rw [h]

theorem orchStep_of_bandRender (h : s.orch.phase = .bandRender) : orchStep s = .next s.afterRender := by
  unfold orchStep
  rw [h]

theorem orchStep_of_bandWait (h : s.orch.phase = .bandWait) :
    orchStep s = .next (if s.env.platform.dispDone then s.afterWait else s) := by
  unfold orchStep
  rw [h]

theorem orchStep_of_bandSend (h : s.orch.phase = .bandSend) : orchStep s = .next s.afterSend := by
  unfold orchStep
  rw [h]

theorem orchStep_of_audioRefill (h : s.orch.phase = .audioRefill) : orchStep s = .next s.nextBand := by
  unfold orchStep
  rw [h]

theorem orchStep_of_frameWait (h : s.orch.phase = .frameWait) :
    orchStep s = .next (if s.env.platform.dispDone then
      (if s.orch.hostOp then s.frameDone.backToTickStart else (s.frameDone.setPhase .input).sampleInput) else s) := by
  unfold orchStep
  rw [h]

theorem orchStep_of_input (h : s.orch.phase = .input) : orchStep s = .next (s.setPhase .power).evalPower := by
  unfold orchStep
  rw [h]

theorem orchStep_of_power (h : s.orch.phase = .power) : orchStep s = .next (s.setPhase .vblank).raiseVblank := by
  unfold orchStep
  rw [h]

theorem orchStep_of_vblank (h : s.orch.phase = .vblank) : orchStep s = .next (s.setPhase .attract).stepDetector := by
  unfold orchStep
  rw [h]

theorem orchStep_of_attract (h : s.orch.phase = .attract) :
    orchStep s = .next (if s.orch.cutDue then s.enterCutscene else s.enterPace) := by
  unfold orchStep
  rw [h]

theorem orchStep_of_cutscene (h : s.orch.phase = .cutscene) :
    orchStep s = .next (if s.orch.cutDue then (if s.env.platform.cut = .playing then s else s.afterCutscene) else
      s.enterPace) := by
  unfold orchStep
  rw [h]

theorem orchStep_of_pace (h : s.orch.phase = .pace) :
    orchStep s = .next (if s.early then s else s.backToTickStart) := by
  unfold orchStep
  rw [h]

/-- ORCH goes on to one state. -/
theorem eq_of_orchStep (h : orchStep s = .next t) (h' : orchStep s = .next u) : t = u :=
  Host.Outcome.next.inj (h.symm.trans h')

end Sys2Proof.Machine
end

section
/-! What the orchestrator's operations do to the state (45_frame_orchestrator.md R270 to R285): the part of it each writes, and
what it puts out. -/

namespace Sys2Proof.Machine

open Sys2Proof

variable {s t u : State}

/-! ### Operations that write the orchestrator's state alone -/

theorem OrchOnly.of_eq (h : t = { s with orch := t.orch, env := t.env }) : OrchOnly s t :=
  ⟨h, State.byteAt_congr (congrArg (·.mio.blk) h)⟩

theorem OrchOnly.trans (hst : OrchOnly s t) (htu : OrchOnly t u) : OrchOnly s u :=
  .of_eq <|
    calc u = { t with orch := u.orch, env := u.env } := htu.1
      _ = { s with orch := u.orch, env := u.env } := by rw [hst.1]

theorem PutsOut.trans {l l' : List Obs} (hst : PutsOut s t l) (htu : PutsOut t u l') : PutsOut s u (l ++ l') := by
  obtain ⟨htrace, hmark, hinputs, hplatform, hagent, hdraws⟩ := hst
  simpa only [PutsOut, htrace, hmark, hinputs, hplatform, hagent, hdraws, List.append_assoc] using htu

theorem beginLong_orchOnly (s : State) : OrchOnly s s.beginLong := by
  unfold State.beginLong
  split <;> exact .of_eq rfl

theorem beginLong_putsOut (s : State) : PutsOut s s.beginLong [] := by
  simp [PutsOut]

theorem beginLong_orch (s : State) : s.beginLong.orch = { s.orch with hostOp := s.beginLong.orch.hostOp } := by
  unfold State.beginLong
  split <;> rfl

theorem beginLong_of_not_host (h : s.env.agent ≠ .host) : s.beginLong = s := by
  simp [State.beginLong, State.byHost, h]

theorem runCpu_orchOnly (s : State) : OrchOnly s s.runCpu := .of_eq rfl

theorem runCpu_putsOut (s : State) : PutsOut s s.runCpu [.cpuExecute s.cfg.orch.cpuBudget] := by
  simp [PutsOut]

theorem early_eq_false_iff (s : State) :
    s.early = false ↔ s.orch.tickT0.toNat + s.cfg.orch.tickPeriodUs ≤ s.env.platform.nowUs.toNat := by
  rw [← Bool.not_eq_true, early_iff, Nat.not_lt]

@[simp] theorem early_beginLong (s : State) : s.beginLong.early = s.early := by
  rw [Bool.eq_iff_iff, early_iff, early_iff]
  simp

theorem enterPace_orchOnly (s : State) : OrchOnly s s.enterPace := by
  unfold State.enterPace
  split <;> exact .of_eq rfl

theorem enterPace_orch (s : State) : s.enterPace.orch = { s.orch with phase := .pace } := by
  unfold State.enterPace
  split <;> rfl

theorem enterPace_putsOut (s : State) :
    PutsOut s s.enterPace (if s.early = true then [.hostSleepUntil s.paceTarget] else []) := by
  unfold State.enterPace
  split <;> simp [PutsOut]

theorem backToTickStart_orchOnly (s : State) : OrchOnly s s.backToTickStart := .of_eq rfl

theorem backToTickStart_putsOut (s : State) : PutsOut s s.backToTickStart [] := by
  simp [PutsOut]

/-- HOST's `PACE` returns at once when the target is not in the future (R284). -/
theorem effectOf_pace_of_host_late (hhost : s.env.agent = .host) (hlate : s.early = false) :
    effectOf .pace s = s.begin.finish := by
  rw [effectOf_pace, if_pos (by simp [State.byHost, hhost, hlate])]

theorem effectOf_pace_of_early (h : s.early = true) : effectOf .pace s = s.beginLong.enterPace := by
  rw [effectOf_pace, if_neg (by simp [h])]

theorem effectOf_pace_of_not_host (h : s.env.agent ≠ .host) : effectOf .pace s = s.enterPace := by
  rw [effectOf_pace, if_neg (by simp [State.byHost, h]), beginLong_of_not_host h]

/-! ### The vblank interrupt -/

theorem ieEnabled_iff (s : State) : s.ieEnabled = true ↔ (s.byteAt (s.cfg.map.ieAddr - s.cfg.map.blockBase)).toNat % 2 = 1 := by
  simp [State.ieEnabled, ieOffset, BitVec.getLsbD, Nat.testBit_zero]

theorem raiseVblank_trace (s : State) :
    s.raiseVblank.env.trace = s.env.trace ++ if s.ieEnabled = true then [.cpuInterrupt s.mio.irqvec] else [] := by
  unfold State.raiseVblank
  split <;> simp [*]

theorem raiseVblank_eq (s : State) : s.raiseVblank = { s with env := s.raiseVblank.env } := by
  unfold State.raiseVblank
  split <;> rfl

/-- An operation whose work changes nothing of the block. -/
theorem whole_blockSame {f : State → State} (hf : ∀ s : State, f s = { s with env := (f s).env }) (s : State) :
    BlockSame s (whole f s) := by
  have hstate : whole f s = { s with env := (whole f s).env } :=
    calc whole f s = { f s.beginOp with env := (whole f s).env } := State.finishOp_eq _
      _ = { s.beginOp with env := (whole f s).env } := by rw [hf s.beginOp]
      _ = { s with env := (whole f s).env } := by rw [State.beginOp_eq s]
  exact ⟨hstate, State.byteAt_congr (congrArg (·.mio.blk) hstate)⟩

/-! ### The end of the cutscene -/

/-- The credits are cleared, a failure is a status, and HOST's operation ends (R280, R282). -/
theorem afterCutscene_eq (h : s.orch.phase = .cutscene) : s.afterCutscene =
    let st := s.env.st ++ if s.env.platform.cut = .fail then [.cutsceneFailed] else []
    { s with
      mio := s.creditReset.mio
      orch := { s.orch with phase := if s.orch.hostOp = true then .tickStart else .cutscene, hostOp := false, cutDue := false }
      env := { s.env with st := st, status := if s.orch.hostOp = true then st.getLastD .ok else s.env.status } } := by
  have hraised : (if s.env.platform.cut = .fail then s.raise .cutsceneFailed else s) =
      { s with env := { s.env with st := s.env.st ++ if s.env.platform.cut = .fail then [.cutsceneFailed] else [] } } := by
    split
    · rfl
    · simp
  unfold State.afterCutscene
  rw [hraised]
  dsimp only
  split
  · rfl
  next hown =>
    rw [← h, ← Bool.eq_false_iff.2 hown]
    rfl

theorem afterCutscene_orch (h : s.orch.phase = .cutscene) : s.afterCutscene.orch =
    { s.orch with phase := if s.orch.hostOp = true then .tickStart else .cutscene, hostOp := false, cutDue := false } := by
  rw [afterCutscene_eq h]

theorem afterCutscene_putsOut (h : s.orch.phase = .cutscene) : PutsOut s s.afterCutscene [] := by
  rw [afterCutscene_eq h]
  simp [PutsOut]

/-! ### The beginning of a tick -/

theorem exec_tick_of_built (hs : TickReady s) (hbuilt : s.notBuilt = false) : exec .tick s = .next s.startTick := by
  obtain ⟨hfault, hopen⟩ := tickReady_iff.1 hs
  exact exec_open hfault hopen (by simpa [conditionsOf] using hbuilt)

end Sys2Proof.Machine

open Sys2Proof Sys2Proof.Machine

/-- Settles O48: the operation is the interrupt, if it is enabled (`raiseVblank_trace`). -/
theorem vblank : Obligations.Vblank := by
  intro s hs
  have hbyte : s.beginOp.ieEnabled = s.ieEnabled := by simp [State.ieEnabled, State.byteAt]
  refine ⟨whole State.raiseVblank s, exec_int rfl hs (by simp [conditionsOf]), ?_, whole_endsWith (l := []) (by simp) (by simp),
    whole_putsOut ?_⟩
  · exact whole_blockSame raiseVblank_eq s
  · simp only [← ieEnabled_iff, PutsOut, raiseVblank_trace, hbyte]
    simp

/-- Settles O51: the end of the cutscene is `State.afterCutscene`, said in full by `afterCutscene_eq`. -/
theorem cutsceneEnds : Obligations.CutsceneEnds := by
  intro s hp hmem
  have hafter := afterCutscene_eq hp
  have horch := afterCutscene_orch hp
  refine ⟨fun hdue hplaying => ?_, fun hdue hended => ⟨s.afterCutscene, ?_, ?_, ?_⟩, fun hover => ?_⟩
  · rw [orchStep_of_cutscene hp, if_pos hdue, if_pos hplaying]
  · rw [orchStep_of_cutscene hp, if_pos hdue, if_neg hended]
  · rw [hafter]; rfl
  · obtain ⟨hA, hB, hother⟩ : CreditsCleared s s.afterCutscene := creditsCleared_of_blk hmem (by rw [hafter])
    refine ⟨hA, hB, hother, by rw [hafter], afterCutscene_putsOut hp, horch, fun hfault => inspectReady_iff.2 ⟨?_, ?_⟩⟩
    · rw [State.setAgent_orch, horch, hfault]
    · simp only [allowed, State.setAgent_env_agent, State.atBoundary, State.setAgent_orch, horch]
      cases s.orch.hostOp <;> rfl
  · rw [orchStep_of_cutscene hp, if_neg (by simp [hover])]
    exact ⟨s.enterPace, rfl, enterPace_orchOnly s, enterPace_orch s, enterPace_putsOut s⟩

/-- Settles O52: the call of `State.runCpu`, after the beginning of a long operation. -/
theorem cpuExecBegins : Obligations.CpuExecBegins := by
  intro s hs
  refine ⟨s.beginLong.runCpu, exec_int rfl hs (by simp [conditionsOf]), (beginLong_orchOnly s).trans (runCpu_orchOnly _), ?_, ?_⟩
  · simpa using (beginLong_putsOut s).trans (runCpu_putsOut _)
  · exact congrArg (fun o : Orch => { o with phase := .cpuExec }) (beginLong_orch s)

/-- Settles O53: before the target `PACE` is `State.enterPace`, and at or after it HOST's is over at once. -/
theorem pacing : Obligations.Pacing := by
  intro s hs
  have hexec : exec .pace s = .next (effectOf .pace s) := exec_int rfl hs (by simp [conditionsOf])
  refine ⟨fun hlt => ⟨_, hexec, ?_⟩, fun hle => ⟨_, hexec, ?_⟩, fun hp hlt => ?_, fun hp hle => ?_⟩
  · have hearly := (early_iff s).2 hlt
    rw [effectOf_pace_of_early hearly]
    refine ⟨(beginLong_orchOnly s).trans (enterPace_orchOnly _), by simp, ?_, by simp⟩
    simpa [hearly, State.paceTarget] using (beginLong_putsOut s).trans (enterPace_putsOut _)
  · have hlate := (early_eq_false_iff s).2 hle
    by_cases hhost : s.env.agent = .host
    · rw [effectOf_pace_of_host_late hhost hlate]
      exact ⟨.of_eq rfl, by simp [PutsOut], fun _ => rfl, fun _ => rfl⟩
    · rw [effectOf_pace_of_not_host hhost]
      exact ⟨enterPace_orchOnly s, by simpa [hlate] using enterPace_putsOut s, fun h => absurd h hhost, fun h => absurd h hhost⟩
  · rw [orchStep_of_pace hp, if_pos ((early_iff s).2 hlt)]
  · rw [orchStep_of_pace hp, if_neg (by simp [(early_eq_false_iff s).2 hle])]
    exact ⟨s.backToTickStart, rfl, backToTickStart_orchOnly s, rfl, backToTickStart_putsOut s⟩

/-- Settles O54: with both tables built the tick begins (`State.startTick`). -/
theorem tickBegins : Obligations.TickBegins := by
  intro s hs
  refine ⟨fun hbuilt => ⟨s.startTick, exec_tick_of_built hs hbuilt, .of_eq rfl, ⟨rfl, rfl, rfl, rfl, rfl, rfl⟩, rfl, rfl, rfl, rfl,
    rfl⟩, fun hunbuilt => ?_⟩
  obtain ⟨hfault, hopen⟩ := tickReady_iff.1 hs
  have hrefused : refusal .tick (conditionsOf .tick s) s = some .notBuilt := by
    rw [refusal_of_open hfault hopen]
    simp [conditionsOf, hunbuilt]
  exact ⟨s.refuse .notBuilt, exec_refused hrefused, refuse_blockSame s _, rfl, rfl⟩
end

section
/-! The attract detector (45_frame_orchestrator.md R280). -/

namespace Sys2Proof.Machine

open Sys2Proof

variable {s : State} {c : OrchParams} {d : Detector} {m s2 : Byte}

theorem detectorStep_fires_iff : (detectorStep c m s2 d).2 = true ↔ m = c.attractValue ∧ d.prevMode ≠ c.attractValue ∧
    ¬(d.played = true ∧ m ≠ c.playValue) ∧ c.state2Gate.getLsbD s2.toNat = true := by
  by_cases hplay : m = c.playValue <;> simp [detectorStep, state2Gate, hplay, and_assoc]

theorem detectorStep_played_iff : (detectorStep c m s2 d).1.played = true ↔
    (detectorStep c m s2 d).2 = true ∨ d.played = true ∧ m ≠ c.playValue := by
  by_cases hplay : m = c.playValue <;> simp [detectorStep, hplay]

/-- The detector, out of its grace period, sees the edge into `ATTRACT_VALUE` while it has not played. -/
def State.detectorFires (s : State) : Prop :=
  s.cfg.orch.graceTicks ≤ s.det.graceCnt ∧ s.byteAt s.cfg.orch.modeOff = s.cfg.orch.attractValue ∧
    s.det.prevMode ≠ s.cfg.orch.attractValue ∧
    ¬(s.det.played = true ∧ s.byteAt s.cfg.orch.modeOff ≠ s.cfg.orch.playValue) ∧
    s.cfg.orch.state2Gate.getLsbD (s.byteAt s.cfg.orch.state2Off).toNat = true

/-- The step of the detector at the bytes of the block. -/
def State.detected (s : State) : Detector × Bool :=
  detectorStep s.cfg.orch (s.byteAt s.cfg.orch.modeOff) (s.byteAt s.cfg.orch.state2Off) s.det

theorem stepDetector_of_grace (h : s.det.graceCnt < s.cfg.orch.graceTicks) : s.stepDetector =
    (s.setDet { s.det with graceCnt := s.det.graceCnt + 1, prevMode := s.byteAt s.cfg.orch.modeOff }).setCutDue false :=
  if_pos h

theorem stepDetector_of_armed (h : ¬s.det.graceCnt < s.cfg.orch.graceTicks) :
    s.stepDetector = (s.setDet s.detected.1).setCutDue s.detected.2 :=
  if_neg h

theorem stepDetector_eq (s : State) : s.stepDetector = { s with det := s.stepDetector.det, orch := s.stepDetector.orch } := by
  unfold State.stepDetector
  dsimp only
  split <;> rfl

theorem stepDetector_orch (s : State) : s.stepDetector.orch = { s.orch with cutDue := s.stepDetector.orch.cutDue } := by
  unfold State.stepDetector
  dsimp only
  split <;> rfl

theorem stepDetector_prevMode (s : State) : s.stepDetector.det.prevMode = s.byteAt s.cfg.orch.modeOff := by
  unfold State.stepDetector
  dsimp only
  split <;> rfl

theorem stepDetector_cutDue_iff (s : State) : s.stepDetector.orch.cutDue = true ↔ s.detectorFires := by
  by_cases hgrace : s.det.graceCnt < s.cfg.orch.graceTicks
  · simp [stepDetector_of_grace hgrace, State.detectorFires, Nat.not_le.2 hgrace]
  · rw [stepDetector_of_armed hgrace, State.setCutDue_orch_cutDue, State.detected, detectorStep_fires_iff]
    exact (and_iff_right (Nat.not_lt.1 hgrace)).symm

theorem stepDetector_orch_of_fires (h : s.detectorFires) : s.stepDetector.orch = { s.orch with cutDue := true } := by
  rw [stepDetector_orch, (stepDetector_cutDue_iff s).2 h]

theorem stepDetector_orch_of_not_fires (h : ¬s.detectorFires) : s.stepDetector.orch = { s.orch with cutDue := false } := by
  rw [stepDetector_orch, Bool.eq_false_iff.2 (mt (stepDetector_cutDue_iff s).1 h)]

theorem stepDetector_played_iff (h : ¬s.det.graceCnt < s.cfg.orch.graceTicks) : s.stepDetector.det.played = true ↔
    s.detectorFires ∨ s.det.played = true ∧ s.byteAt s.cfg.orch.modeOff ≠ s.cfg.orch.playValue := by
  rw [← stepDetector_cutDue_iff, stepDetector_of_armed h]
  exact detectorStep_played_iff

/-! ### The transaction -/

/-- The status list of the operation is none of the detector's business. -/
theorem stepDetector_beginOp (s : State) : s.beginOp.stepDetector = { s.stepDetector with env := s.beginOp.env } := by
  rw [State.beginOp_eq s]
  unfold State.stepDetector
  dsimp only
  split <;> rfl

theorem stepDetector_beginOp_orch (s : State) : s.beginOp.stepDetector.orch = s.stepDetector.orch := by
  rw [stepDetector_beginOp]

theorem beginOp_detectorFires (s : State) : s.beginOp.detectorFires ↔ s.detectorFires := by
  rw [State.beginOp_eq s]
  rfl

theorem effectOf_attract_of_fires (h : s.detectorFires) :
    effectOf .attract s = s.beginOp.stepDetector.enterCutscene.setHostOp s.byHost := by
  rw [effectOf_attract, if_pos ((stepDetector_cutDue_iff _).2 ((beginOp_detectorFires s).2 h))]

theorem effectOf_attract_of_not_fires (h : ¬s.detectorFires) : effectOf .attract s = s.beginOp.stepDetector.finishOp := by
  rw [effectOf_attract, if_neg fun hdue => h ((beginOp_detectorFires s).1 ((stepDetector_cutDue_iff _).1 hdue))]

/-- Of the block the operation writes the detector's state, as its step does, and the orchestrator's. -/
theorem effectOf_attract_eq (s : State) : effectOf .attract s =
    { s with det := s.stepDetector.det, orch := (effectOf .attract s).orch, env := (effectOf .attract s).env } := by
  by_cases hfires : s.detectorFires
  · rw [effectOf_attract_of_fires hfires, stepDetector_beginOp, stepDetector_eq]
    rfl
  · rw [effectOf_attract_of_not_fires hfires, State.finishOp_eq, stepDetector_beginOp, stepDetector_eq]

end Sys2Proof.Machine

open Sys2Proof Sys2Proof.Machine

/-- Settles O49: after the detector's step `cutDue` says whether it fired (`stepDetector_cutDue_iff`). -/
theorem attractDetector : Obligations.AttractDetector := by
  intro s hs m s2 grace played fire
  have hfire : fire ↔ s.detectorFires := and_congr_left' Nat.not_lt
  have hdet : (effectOf .attract s).det = s.stepDetector.det := by rw [effectOf_attract_eq]
  have hstate := effectOf_attract_eq s
  rw [← hdet] at hstate
  refine ⟨effectOf .attract s, exec_int rfl hs (by simp [conditionsOf]), State.byteAt_congr (congrArg (·.mio.blk) hstate),
    hdet ▸ stepDetector_prevMode s, hstate, fun hgrace => ?_, fun harmed => ⟨?_, ?_⟩, fun hnot => ?_, fun hfires => ?_⟩
  · rw [hdet, stepDetector_of_grace hgrace]
    exact ⟨rfl, rfl⟩
  · rw [hdet, stepDetector_of_armed harmed]
    rfl
  · rw [hdet, stepDetector_played_iff harmed, hfire]
  · rw [hfire] at hnot
    have hst (hhost : s.env.agent = .host) : s.beginOp.stepDetector.env.st = [] := by simp [beginOp_st, hhost]
    rw [effectOf_attract_of_not_fires hnot]
    refine ⟨?_, by simp [PutsOut], fun hhost => finishOp_status_ok (by simpa using hst) (by simpa using hhost)⟩
    rw [State.finishOp_orch, stepDetector_beginOp_orch, stepDetector_orch_of_not_fires hnot]
  · rw [hfire] at hfires
    have horch := (stepDetector_beginOp_orch s).trans (stepDetector_orch_of_fires hfires)
    rw [effectOf_attract_of_fires hfires]
    exact ⟨congrArg (fun o : Orch => { o with phase := .cutscene, hostOp := s.byHost }) horch, by simp [PutsOut]⟩
end

section
/-! How often the detector fires (45_frame_orchestrator.md R280): having fired it has played, and having played it does not fire
until it sees `PLAY_VALUE`. -/

namespace Sys2Proof.Machine

open Sys2Proof

variable {c : OrchParams} {d : Detector} {m : Byte × Byte} {l : List (Byte × Byte)}

/-- One step of the detector, on a mode byte and a state byte, that counts whether it fires. -/
def countFiring (c : OrchParams) (a : Detector × Nat) (m : Byte × Byte) : Detector × Nat :=
  ((detectorStep c m.1 m.2 a.1).1, a.2 + if (detectorStep c m.1 m.2 a.1).2 then 1 else 0)

/-- The firings over a sequence of mode and state bytes, `n` having been counted before. -/
def firings (c : OrchParams) (d : Detector) (n : Nat) (l : List (Byte × Byte)) : Nat := (l.foldl (countFiring c) (d, n)).2

theorem firings_cons (c : OrchParams) (d : Detector) (n : Nat) (m : Byte × Byte) (l : List (Byte × Byte)) :
    firings c d n (m :: l) = firings c (detectorStep c m.1 m.2 d).1
      (n + if (detectorStep c m.1 m.2 d).2 then 1 else 0) l := rfl

theorem detectorStep_of_played {s2 v : Byte} (hd : d.played = true) (hv : v ≠ c.playValue) :
    (detectorStep c v s2 d).2 = false ∧ (detectorStep c v s2 d).1.played = true := by
  refine ⟨?_, detectorStep_played_iff.2 (.inr ⟨hd, hv⟩)⟩
  rw [← Bool.not_eq_true, detectorStep_fires_iff]
  exact fun ⟨_, _, hnot, _⟩ => hnot ⟨hd, hv⟩

theorem firings_of_played (hd : d.played = true) (hl : c.playValue ∉ l.map Prod.fst) (n : Nat) : firings c d n l = n := by
  induction l generalizing d with
  | nil => rfl
  | cons m l ih =>
    obtain ⟨hm, hrest⟩ : c.playValue ≠ m.1 ∧ c.playValue ∉ l.map Prod.fst := by simpa using hl
    obtain ⟨hquiet, hplayed⟩ := detectorStep_of_played (s2 := m.2) hd hm.symm
    rw [firings_cons, hquiet]
    exact ih hplayed hrest

theorem firings_le (hl : c.playValue ∉ l.map Prod.fst) (n : Nat) : firings c d n l ≤ n + 1 := by
  induction l generalizing d with
  | nil => exact Nat.le_succ n
  | cons m l ih =>
    obtain ⟨-, hrest⟩ : c.playValue ≠ m.1 ∧ c.playValue ∉ l.map Prod.fst := by simpa using hl
    rw [firings_cons]
    cases hfire : (detectorStep c m.1 m.2 d).2 with
    | true =>
      have hplayed := detectorStep_played_iff.2 (.inl hfire)
      exact (firings_of_played hplayed hrest (n + 1)).le
    | false => exact ih hrest

/-- At P0 the gate is open for every state byte. -/
theorem p0Orch_state2Gate (b : Byte) : p0Orch.state2Gate.getLsbD b.toNat = true := by
  have hgate : p0Orch.state2Gate = BitVec.allOnes 256 := rfl
  rw [hgate, BitVec.getLsbD_allOnes]
  exact decide_eq_true b.isLt

/-- At P0 the edge into `ATTRACT_VALUE` fires a detector that has not played. -/
theorem detectorStep_p0_fires (hprev : d.prevMode ≠ 1#8) (hplayed : d.played = false) (b : Byte) :
    (detectorStep p0Orch 1#8 b d).2 = true :=
  detectorStep_fires_iff.2 ⟨rfl, hprev, by simp [hplayed], p0Orch_state2Gate b⟩

end Sys2Proof.Machine

open Sys2Proof Sys2Proof.Machine

/-- Settles O50: the first firing sets `played`, after which there is none (`firings_of_played`). -/
theorem detectorFiresOncePerCycle : Obligations.DetectorFiresOncePerCycle := by
  refine ⟨fun c d l hl => ⟨firings_le hl 0, fun hd => firings_of_played hd hl 0⟩, fun d a b e hprev hplayed => ?_⟩
  have hfire := detectorStep_p0_fires hprev hplayed a
  calc firings p0Orch d 0 [(1#8, a), (2#8, b), (1#8, e)]
      = firings p0Orch (detectorStep p0Orch 1#8 a d).1 1 [(2#8, b), (1#8, e)] := by rw [firings_cons, hfire]; rfl
    _ = 1 := firings_of_played (detectorStep_played_iff.2 (.inl hfire)) (by simp [p0Orch]) 1
end

section
/-! The phase each operation of a tick leaves ORCH in (45_frame_orchestrator.md R261). -/

namespace Sys2Proof.Machine

open Sys2Proof

variable {s t : State}

/-- A frame that R213 does not refuse begins with its first band. -/
theorem enterFrame_eq_beginBand (hbuilt : s.notBuilt = false) (hidle : s.video.dispBusy = false) :
    s.enterFrame = s.beginBand 0 := by
  simp [State.enterFrame, State.frameRefusals, hbuilt, hidle]

theorem nextBand_of_lt (h : s.orch.bandJ + 1 < s.cfg.geo.bandCount) : s.nextBand = s.beginBand (s.orch.bandJ + 1) := if_pos h

theorem nextBand_of_last (h : s.cfg.geo.bandCount ≤ s.orch.bandJ + 1) : s.nextBand = s.enterWait .frameWait :=
  if_neg (Nat.not_lt.2 h)

/-- `t` is at the band after the one of `s`, or in the final wait when there is none. -/
def AtNextBand (s t : State) : Prop :=
  (s.orch.bandJ + 1 < s.cfg.geo.bandCount → t.orch.phase = .bandRender ∧ t.orch.bandJ = s.orch.bandJ + 1) ∧
    (s.cfg.geo.bandCount ≤ s.orch.bandJ + 1 → t.orch.phase = .frameWait ∧ t.orch.bandJ = s.orch.bandJ)

theorem nextBand_atNextBand (s : State) : AtNextBand s s.nextBand := by
  refine ⟨fun hmore => ?_, fun hlast => ?_⟩
  · simp [nextBand_of_lt hmore]
  · simp [nextBand_of_last hlast]

theorem afterRender_phase (s : State) :
    s.afterRender.orch.bandJ = s.orch.bandJ ∧ s.afterRender.orch.phase = if 0 < s.orch.bandJ then .bandWait else .bandSend := by
  unfold State.afterRender
  split <;> simp

theorem afterSend_of_refill (h : (s.orch.bandJ + 1) % s.cfg.wsg.audioRefillBands = 0) :
    s.afterSend = (s.setPhase .audioRefill).refillAudio := if_pos h

theorem afterSend_of_no_refill (h : (s.orch.bandJ + 1) % s.cfg.wsg.audioRefillBands ≠ 0) : s.afterSend = s.nextBand := if_neg h

theorem afterSend_atNextBand (h : (s.orch.bandJ + 1) % s.cfg.wsg.audioRefillBands ≠ 0) : AtNextBand s s.afterSend := by
  rw [afterSend_of_no_refill h]
  exact nextBand_atNextBand s

theorem orchStep_of_tickStart_built (hp : s.orch.phase = .tickStart) (hfault : s.orch.fault = none) (hbuilt : s.notBuilt = false) :
    orchStep s = .next (s.setAgent .orch).startTick := by
  rw [orchStep_of_tickStart hp]
  exact exec_tick_of_built ⟨hfault, .inr rfl, hp⟩ hbuilt

end Sys2Proof.Machine

open Sys2Proof Sys2Proof.Machine

/-- Settles O55: one clause for each equation of `orchStep`. -/
theorem phaseTransitions : Obligations.PhaseTransitions := by
  intro s t hfault hbuilt h j m fires target goesOn
  have hfires : (s.setPhase .attract).detectorFires ↔ fires := Iff.rfl
  refine ⟨fun hp => ?_, fun hp => ?_, fun hp => ?_, fun hp => ?_, fun hp hidle => ?_, fun hp => ?_,
    fun hp => ⟨fun hdone => ?_, fun hwait => ?_⟩, fun hp => ⟨fun hrefill => ?_, fun hnone => ?_⟩, fun hp => ?_,
    fun hp => ⟨fun hdone => ?_, fun hwait => ?_⟩, fun hp => ?_, fun hp => ?_, fun hp => ?_, fun hp => ?_,
    fun hp => ⟨fun hdue hplaying => ?_, fun hdue hended => ?_, fun hover => ?_⟩, fun hp => ⟨fun hlt => ?_, fun hle => ?_⟩⟩
  · obtain hp | hp := hp
    · exact eq_of_orchStep h (orchStep_of_reset hp)
    · exact eq_of_orchStep h (orchStep_of_initFailed hp)
  · obtain rfl := eq_of_orchStep h (orchStep_of_tickStart_built hp hfault hbuilt)
    exact ⟨rfl, rfl⟩
  · obtain rfl := eq_of_orchStep h (orchStep_of_cpuExec hp)
    split <;> simp
  · obtain rfl := eq_of_orchStep h (orchStep_of_parse hp)
    rfl
  · obtain rfl := eq_of_orchStep h (orchStep_of_sprPrep hp)
    simp [enterFrame_eq_beginBand hbuilt hidle]
  · obtain rfl := eq_of_orchStep h (orchStep_of_bandRender hp)
    exact afterRender_phase s
  · obtain rfl := eq_of_orchStep h (orchStep_of_bandWait hp)
    simp [hdone, State.afterWait, j]
  · simpa [hwait] using eq_of_orchStep h (orchStep_of_bandWait hp)
  · obtain rfl := eq_of_orchStep h (orchStep_of_bandSend hp)
    simp [afterSend_of_refill hrefill, j]
  · obtain rfl := eq_of_orchStep h (orchStep_of_bandSend hp)
    exact afterSend_atNextBand hnone
  · obtain rfl := eq_of_orchStep h (orchStep_of_audioRefill hp)
    exact nextBand_atNextBand s
  · obtain rfl := eq_of_orchStep h (orchStep_of_frameWait hp)
    rw [if_pos hdone]
    split <;> simp
  · simpa [hwait] using eq_of_orchStep h (orchStep_of_frameWait hp)
  · obtain rfl := eq_of_orchStep h (orchStep_of_input hp)
    simp
  · obtain rfl := eq_of_orchStep h (orchStep_of_power hp)
    simp
  · obtain rfl := eq_of_orchStep h (orchStep_of_vblank hp)
    exact ⟨by simp, (stepDetector_cutDue_iff _).trans hfires⟩
  · obtain rfl := eq_of_orchStep h (orchStep_of_attract hp)
    split <;> simp
  · simpa [hdue, hplaying] using eq_of_orchStep h (orchStep_of_cutscene hp)
  · obtain rfl := eq_of_orchStep h (orchStep_of_cutscene hp)
    simp [hdue, hended, afterCutscene_orch hp]
  · obtain rfl := eq_of_orchStep h (orchStep_of_cutscene hp)
    simp [hover]
  · simpa [(early_iff s).2 hlt] using eq_of_orchStep h (orchStep_of_pace hp)
  · obtain rfl := eq_of_orchStep h (orchStep_of_pace hp)
    simp [(early_eq_false_iff s).2 hle]
end

section
/-! The steps of a frame and of a tick add up to their straight-line pseudocode (43_sprite_compositor.md R213,
45_frame_orchestrator.md R262): with nobody presenting anything and every wait answered, ORCH goes from each line to the next. -/

namespace Sys2Proof.Machine

open Sys2Proof

variable {s t u : State}

/-! ### Runs -/

/-- Some number of steps leads from `s` to `t`. -/
def RunsTo (s t : State) : Prop := ∃ n, Host.Core.run core n s = .next t

theorem RunsTo.refl (s : State) : RunsTo s s := ⟨0, rfl⟩

theorem RunsTo.trans (h : RunsTo s t) (h' : RunsTo t u) : RunsTo s u := by
  obtain ⟨m, hm⟩ := h
  obtain ⟨n, hn⟩ := h'
  exact ⟨m + n, run_trans hm hn⟩

theorem FreeRunning.inputs (h : FreeRunning s) : s.env.inputs = [] := h.1

theorem FreeRunning.dispDone (h : FreeRunning s) : s.env.platform.dispDone = true := h.2.1

theorem FreeRunning.cut (h : FreeRunning s) : s.env.platform.cut ≠ .playing := h.2.2

theorem FreeRunning.step (hfree : FreeRunning s) (h : orchStep s = .next t) : RunsTo s t :=
  ⟨1, (run_succ 0 ((step_free hfree.inputs).trans h)).trans rfl⟩

/-- What no operation of a tick changes: the launch, what the outside world presents and supplies, and whether the operation in
progress is HOST's. -/
structure SameTick (s t : State) : Prop where
  cfg : t.cfg = s.cfg
  inputs : t.env.inputs = s.env.inputs
  platform : t.env.platform = s.env.platform
  hostOp : t.orch.hostOp = s.orch.hostOp

theorem SameTick.refl (s : State) : SameTick s s := ⟨rfl, rfl, rfl, rfl⟩

theorem SameTick.trans (h : SameTick s t) (h' : SameTick t u) : SameTick s u where
  cfg := h'.cfg.trans h.cfg
  inputs := h'.inputs.trans h.inputs
  platform := h'.platform.trans h.platform
  hostOp := h'.hostOp.trans h.hostOp

theorem FreeRunning.on (hfree : FreeRunning s) (h : SameTick s t) : FreeRunning t := by
  simpa only [FreeRunning, h.inputs, h.platform] using hfree

theorem FreeRunning.of_putsOut {l : List Obs} (hfree : FreeRunning s) (h : PutsOut s t l) : FreeRunning t := by
  obtain ⟨-, -, hinputs, hplatform, -⟩ := h
  simpa only [FreeRunning, hinputs, hplatform] using hfree

/-! ### One band -/

/-- The `j`-th band rendered, the transfer before it awaited if there is one, and handed over. -/
def State.sentBand (s : State) (j : Nat) : State :=
  (if 0 < j then ((s.beginBand j).enterWait .bandWait).waitReturned (j - 1) else s.beginBand j).sendBand j

theorem frameBand_of_refill {j : Nat} (h : (j + 1) % s.cfg.wsg.audioRefillBands = 0) :
    s.frameBand j = ((s.sentBand j).setPhase .audioRefill).refillAudio := if_pos h

theorem frameBand_of_no_refill {j : Nat} (h : (j + 1) % s.cfg.wsg.audioRefillBands ≠ 0) : s.frameBand j = s.sentBand j := if_neg h

theorem sentBand_sameTick (s : State) (j : Nat) : SameTick s (s.sentBand j) := by
  unfold State.sentBand
  split
  · constructor <;> simp
  · constructor <;> simp

theorem sentBand_phase (s : State) (j : Nat) : (s.sentBand j).orch.phase = .bandSend := by
  simp [State.sentBand]

theorem sentBand_bandJ (s : State) (j : Nat) : (s.sentBand j).orch.bandJ = j := by
  unfold State.sentBand
  split <;> simp

theorem refill_sameTick (s : State) : SameTick s (s.setPhase .audioRefill).refillAudio := by
  constructor <;> simp

theorem frameBand_sameTick (s : State) (j : Nat) : SameTick s (s.frameBand j) := by
  by_cases hrefill : (j + 1) % s.cfg.wsg.audioRefillBands = 0
  · rw [frameBand_of_refill hrefill]
    exact (sentBand_sameTick s j).trans (refill_sameTick _)
  · rw [frameBand_of_no_refill hrefill]
    exact sentBand_sameTick s j

theorem frameBand_bandJ (s : State) (j : Nat) : (s.frameBand j).orch.bandJ = j := by
  by_cases hrefill : (j + 1) % s.cfg.wsg.audioRefillBands = 0
  · simp [frameBand_of_refill hrefill, sentBand_bandJ]
  · rw [frameBand_of_no_refill hrefill, sentBand_bandJ]

theorem beginBand_sameTick (s : State) (j : Nat) : SameTick s (s.beginBand j) := by
  constructor <;> simp

theorem enterWait_sameTick (s : State) (p : Phase) : SameTick s (s.enterWait p) := by
  constructor <;> simp

/-- The first band is sent as soon as it is rendered, a later one when DISP has completed the transfer before it. -/
theorem runsTo_sentBand (hfree : FreeRunning s) (j : Nat) : RunsTo (s.beginBand j) (s.sentBand j) := by
  have hbegun := hfree.on (beginBand_sameTick s j)
  have hrendered : orchStep (s.beginBand j) = .next (s.beginBand j).afterRender := orchStep_of_bandRender (by simp)
  simp only [State.afterRender, State.beginBand_orch_bandJ] at hrendered
  by_cases hj : 0 < j
  · rw [if_pos hj] at hrendered
    have hwaiting := hbegun.on (enterWait_sameTick _ .bandWait)
    have hsent : orchStep ((s.beginBand j).enterWait .bandWait) = .next (s.sentBand j) := by
      rw [orchStep_of_bandWait rfl, if_pos hwaiting.dispDone]
      simp [State.afterWait, State.sentBand, hj]
    exact (hbegun.step hrendered).trans (hwaiting.step hsent)
  · rw [if_neg hj] at hrendered
    have hsent : s.sentBand j = (s.beginBand j).sendBand j := by rw [State.sentBand, if_neg hj]
    rw [hsent]
    exact hbegun.step hrendered

theorem runsTo_frameBand (hfree : FreeRunning s) (j : Nat) : RunsTo (s.beginBand j) (s.frameBand j) := by
  have hsent := runsTo_sentBand hfree j
  by_cases hrefill : (j + 1) % s.cfg.wsg.audioRefillBands = 0
  · have hdue : ((s.sentBand j).orch.bandJ + 1) % (s.sentBand j).cfg.wsg.audioRefillBands = 0 := by
      rwa [sentBand_bandJ, (sentBand_sameTick s j).cfg]
    have hstep := orchStep_of_bandSend (sentBand_phase s j)
    rw [afterSend_of_refill hdue, ← frameBand_of_refill hrefill] at hstep
    exact hsent.trans ((hfree.on (sentBand_sameTick s j)).step hstep)
  · rw [frameBand_of_no_refill hrefill]
    exact hsent

/-- After a band and its refill ORCH goes on to the next band. -/
theorem orchStep_frameBand (s : State) (j : Nat) : orchStep (s.frameBand j) = .next (s.frameBand j).nextBand := by
  by_cases hrefill : (j + 1) % s.cfg.wsg.audioRefillBands = 0
  · exact orchStep_of_audioRefill (by simp [frameBand_of_refill hrefill])
  · have hnone : ((s.sentBand j).orch.bandJ + 1) % (s.sentBand j).cfg.wsg.audioRefillBands ≠ 0 := by
      rwa [sentBand_bandJ, (sentBand_sameTick s j).cfg]
    rw [frameBand_of_no_refill hrefill, orchStep_of_bandSend (sentBand_phase s j), afterSend_of_no_refill hnone]

/-! ### The frame -/

theorem frameBands_sameTick (s : State) (n : Nat) : SameTick s (s.frameBands n) := by
  induction n with
  | zero => exact .refl s
  | succ n ih => exact ih.trans (frameBand_sameTick _ n)

/-- After `n + 1` rounds of the loop ORCH goes on from the `n`-th band. -/
theorem runsTo_nextBand (hfree : FreeRunning s) (n : Nat) :
    RunsTo (s.frameBands (n + 1)) (s.frameBands (n + 1)).nextBand :=
  (hfree.on (frameBands_sameTick s (n + 1))).step (orchStep_frameBand _ n)

theorem runsTo_frameBands (hfree : FreeRunning s) {n : Nat} (hn : n < s.cfg.geo.bandCount) :
    RunsTo (s.beginBand 0) (s.frameBands (n + 1)) := by
  induction n with
  | zero => exact runsTo_frameBand hfree 0
  | succ n ih =>
    have hbandJ : (s.frameBands (n + 1)).orch.bandJ = n := frameBand_bandJ _ n
    have hmore : (s.frameBands (n + 1)).orch.bandJ + 1 < (s.frameBands (n + 1)).cfg.geo.bandCount := by
      rwa [hbandJ, (frameBands_sameTick s _).cfg]
    have hnext := runsTo_nextBand hfree n
    rw [nextBand_of_lt hmore, hbandJ] at hnext
    have hband := runsTo_frameBand (hfree.on (frameBands_sameTick s (n + 1))) (n + 1)
    exact ((ih (by omega)).trans hnext).trans hband

/-- All bands are sent, and ORCH awaits the last transfer. -/
def State.allSent (s : State) : State := (s.frameBands s.cfg.geo.bandCount).enterWait .frameWait

theorem allSent_sameTick (s : State) : SameTick s s.allSent :=
  (frameBands_sameTick s s.cfg.geo.bandCount).trans (enterWait_sameTick _ .frameWait)

theorem frameDone_sameTick (s : State) : SameTick s s.frameDone := by
  constructor <;> simp

theorem frameWhole_sameTick (s : State) : SameTick s s.frameWhole := (allSent_sameTick s).trans (frameDone_sameTick _)

theorem runsTo_allSent (hfree : FreeRunning s) (hcount : 1 ≤ s.cfg.geo.bandCount) : RunsTo (s.beginBand 0) s.allSent := by
  obtain ⟨n, hn⟩ : ∃ n, s.cfg.geo.bandCount = n + 1 := ⟨_, (Nat.sub_add_cancel hcount).symm⟩
  have hlast : (s.frameBands (n + 1)).cfg.geo.bandCount ≤ (s.frameBands (n + 1)).orch.bandJ + 1 := by
    rw [(frameBands_sameTick s _).cfg, hn]
    exact Nat.succ_le_succ (frameBand_bandJ _ n).ge
  have hnext := runsTo_nextBand hfree n
  rw [nextBand_of_last hlast] at hnext
  rw [State.allSent, hn]
  exact (runsTo_frameBands hfree (by omega)).trans hnext

/-! ### The tick -/

/-- The lines of R262 between `CPU_EXEC()` and the frame. -/
def State.prepared (s : State) : State := (((s.setPhase .parse).parseSound).setPhase .sprPrep).prepSprites

theorem parse_sameTick (s : State) : SameTick s (s.setPhase .parse).parseSound := by
  constructor <;> simp

theorem sprPrep_sameTick (s : State) : SameTick s (s.setPhase .sprPrep).prepSprites := by
  constructor <;> simp

theorem input_sameTick (s : State) : SameTick s (s.setPhase .input).sampleInput := by
  constructor <;> simp

theorem power_sameTick (s : State) : SameTick s (s.setPhase .power).evalPower := by
  constructor <;> simp

theorem vblank_sameTick (s : State) : SameTick s (s.setPhase .vblank).raiseVblank := by
  constructor <;> simp

theorem attract_sameTick (s : State) : SameTick s (s.setPhase .attract).stepDetector := by
  constructor <;> simp

theorem enterCutscene_sameTick (s : State) : SameTick s s.enterCutscene := by
  constructor <;> simp

theorem prepared_sameTick (s : State) : SameTick s s.prepared := (parse_sameTick s).trans (sprPrep_sameTick _)

theorem sampled_sameTick (s : State) : SameTick s (s.prepared.frameWhole.setPhase .input).sampleInput :=
  ((prepared_sameTick s).trans (frameWhole_sameTick _)).trans (input_sameTick _)

theorem tickMiddle_sameTick (s : State) : SameTick s s.tickMiddle :=
  ((sampled_sameTick s).trans (power_sameTick _)).trans (vblank_sameTick _)

theorem tickMiddle_phase (s : State) : s.tickMiddle.orch.phase = .vblank := by
  simp [State.tickMiddle]

theorem runsTo_prepared (hfree : FreeRunning s) (hp : s.orch.phase = .cpuExec) (hown : s.orch.hostOp = false) :
    RunsTo s s.prepared := by
  have hparse := orchStep_of_cpuExec hp
  rw [if_neg (by simp [hown])] at hparse
  exact (hfree.step hparse).trans ((hfree.on (parse_sameTick s)).step (orchStep_of_parse (by simp)))

/-- A frame of the tick runs to its end, and ORCH goes on to `INPUT`. -/
theorem runsTo_input (hfree : FreeRunning s) (hp : s.orch.phase = .sprPrep) (hown : s.orch.hostOp = false)
    (hbuilt : s.notBuilt = false) (hidle : s.video.dispBusy = false) (hcount : 1 ≤ s.cfg.geo.bandCount) :
    RunsTo s (s.frameWhole.setPhase .input).sampleInput := by
  have hwaiting := hfree.on (allSent_sameTick s)
  have hbegin := orchStep_of_sprPrep hp
  rw [enterFrame_eq_beginBand hbuilt hidle] at hbegin
  have hend := orchStep_of_frameWait (s := s.allSent) rfl
  rw [if_pos hwaiting.dispDone, (allSent_sameTick s).hostOp, hown, if_neg Bool.false_ne_true] at hend
  exact ((hfree.step hbegin).trans (runsTo_allSent hfree hcount)).trans (hwaiting.step hend)

theorem runsTo_tickMiddle (hfree : FreeRunning s) (hp : s.orch.phase = .cpuExec) (hown : s.orch.hostOp = false)
    (hbuilt : s.notBuilt = false) (hidle : s.video.dispBusy = false) (hcount : 1 ≤ s.cfg.geo.bandCount) :
    RunsTo s s.tickMiddle := by
  have hkept := prepared_sameTick s
  have hframe := runsTo_input (s := s.prepared) (hfree.on hkept) rfl (hkept.hostOp.trans hown) hbuilt hidle hcount
  have hpower := (hfree.on (sampled_sameTick s)).step (orchStep_of_input (by simp))
  have hvblank := (hfree.on ((sampled_sameTick s).trans (power_sameTick _))).step (orchStep_of_power (by simp))
  exact (((runsTo_prepared hfree hp hown).trans hframe).trans hpower).trans hvblank

/-- A cutscene that is due is played to its end, and the tick goes on to `PACE`. -/
theorem runsTo_cutscene (hfree : FreeRunning s) (hp : s.orch.phase = .attract) (hdue : s.orch.cutDue = true)
    (hown : s.orch.hostOp = false) : RunsTo s s.enterCutscene.afterCutscene.enterPace := by
  have hplay := orchStep_of_attract hp
  rw [if_pos hdue] at hplay
  have hplaying := hfree.on (enterCutscene_sameTick s)
  have hend := orchStep_of_cutscene (s := s.enterCutscene) rfl
  rw [State.enterCutscene_orch_cutDue, if_pos hdue, if_neg hplaying.cut] at hend
  have horch := afterCutscene_orch (s := s.enterCutscene) rfl
  rw [State.enterCutscene_orch_hostOp, hown, if_neg Bool.false_ne_true] at horch
  have hpace := orchStep_of_cutscene (s := s.enterCutscene.afterCutscene) (by rw [horch])
  rw [horch, if_neg Bool.false_ne_true] at hpace
  have hover := hplaying.of_putsOut (afterCutscene_putsOut rfl)
  exact ((hfree.step hplay).trans (hplaying.step hend)).trans (hover.step hpace)

/-- The detector, the cutscene if it fires, and the beginning of `PACE`. -/
theorem runsTo_attractAndPace (hfree : FreeRunning s) (hp : s.orch.phase = .vblank) (hown : s.orch.hostOp = false) :
    RunsTo s s.attractAndPace := by
  have hkept := attract_sameTick s
  have hphase : (s.setPhase .attract).stepDetector.orch.phase = .attract := by simp
  refine (hfree.step (orchStep_of_vblank hp)).trans ?_
  unfold State.attractAndPace
  dsimp only
  split
  next hdue => exact runsTo_cutscene (hfree.on hkept) hphase hdue (hkept.hostOp.trans hown)
  next hnone =>
    have hpace := orchStep_of_attract hphase
    rw [if_neg hnone] at hpace
    exact (hfree.on hkept).step hpace

end Sys2Proof.Machine

open Sys2Proof Sys2Proof.Machine

/-- Settles O56: each line of the pseudocode is reached from the one before it (`RunsTo`). -/
theorem tickRunsAsWritten : Obligations.TickRunsAsWritten := by
  intro s hs hfree hbuilt hidle hcount
  have hstart : FreeRunning s.startTick := hfree
  have hmiddle : RunsTo s.startTick s.startTick.tickMiddle := runsTo_tickMiddle hstart rfl rfl hbuilt hidle hcount
  have hkept := tickMiddle_sameTick s.startTick
  obtain ⟨n, hn⟩ := hmiddle.trans (runsTo_attractAndPace (hstart.on hkept) (tickMiddle_phase _) hkept.hostOp)
  exact ⟨s.startTick, n, exec_tick_of_built hs hbuilt, hn⟩
end

section
/-! `RESET` refused, failed and presented first (70_reset_and_hazards.md R380, R382, R386). HOST's `RESET` is admitted in every
phase, so the record, the tables and the subsystems alone decide how it ends. -/

namespace Sys2Proof.Machine

open Sys2Proof

variable {s : State}

/-! ### The parameter record -/

theorem tasInRange_iff (g : GeoParams) : tasInRange g = true ↔
    ∀ r q, r < g.nrows → q < g.ncols → 0 ≤ tas g r q ∧ tas g r q < (g.cramOff : Int) - g.vramOff := by
  simp only [tasInRange, List.all_eq_true, List.mem_range, Bool.and_eq_true, decide_eq_true_eq]
  exact ⟨fun h r q hr hq => h r hr q hq, fun h r hr q hq => h r q hr hq⟩

theorem geoOk_iff (c : Params) : geoOk c = true ↔
    c.geo.tileH = c.geo.bandLines ∧ c.geo.topRows + c.geo.botRows ≤ c.geo.nrows ∧
      (∀ r q, r < c.geo.nrows → q < c.geo.ncols →
        0 ≤ tas c.geo r q ∧ tas c.geo r q < (c.geo.cramOff : Int) - c.geo.vramOff) ∧
      (c.geo.cramOff : Int) + (c.geo.cramOff - c.geo.vramOff) ≤ c.map.blockSize ∧
      c.map.blockBase + c.map.blockSize ≤ 0x8000 ∧
      1 ≤ c.geo.bandCount ∧ c.geo.bandFirst + c.geo.bandCount ≤ c.nbands := by
  simp only [geoOk, Bool.and_eq_true, decide_eq_true_eq, beq_iff_eq, tasInRange_iff, and_assoc]

theorem sprOk_iff (c : Params) : sprOk c = true ↔
    c.spr.spraOff + 2 * c.spr.nsprites ≤ c.map.blockSize ∧ c.spr.sprpOff + 2 * c.spr.nsprites ≤ c.map.blockSize ∧
      c.spr.sprW = 16 := by
  simp only [sprOk, Bool.and_eq_true, decide_eq_true_eq, beq_iff_eq, and_assoc]

theorem wsgOk_iff (c : Params) : wsgOk c = true ↔
    c.wsg.nwaves = 16 ∧ 1 ≤ c.wsg.audioRefillBands ∧ c.wsg.nvoices = 3 ∧ c.wsg.waveLen = 32 ∧ c.wsg.idxMask + 1 = 32 ∧
      c.wsg.phaseShift + 5 = 18 ∧ 18 ≤ c.wsg.phaseW := by
  simp only [wsgOk, Bool.and_eq_true, decide_eq_true_eq, beq_iff_eq, and_assoc]

theorem restOk_iff (c : Params) : restOk c = true ↔
    c.map.addrW = 16 ∧ c.orch.tiltOff < c.orch.tiltOn ∧ 0 ≤ c.orch.tiltOff ∧ c.map.romWin ≤ c.map.romImageSize ∧
      (c.map.hasAux = true → c.map.auxRomOff + c.map.auxSize ≤ c.map.romImageSize) := by
  have haux (size : Prop) [Decidable size] :
      (!c.map.hasAux || decide size) = true ↔ (c.map.hasAux = true → size) := by
    cases c.map.hasAux <;> simp
  simp only [restOk, Bool.and_eq_true, decide_eq_true_eq, beq_iff_eq, haux, and_assoc]

/-! ### How HOST's `RESET` ends -/

/-- The access table opens the row of `RESET` to HOST in every phase, and a fault does not close it (60_exceptions.md R360;
70_reset_and_hazards.md R380); so the record comes first, then the tables. -/
theorem refusal_reset_of_host (ha : s.env.agent = .host) : refusal (cmdClass .reset) (conditionsOf .reset s) s =
    if paramsOk s.cfg = false then some .badConfig else if s.load.loaded s.cfg = false then some .notLoaded else none := by
  have hopen : refusal (cmdClass .reset) (conditionsOf .reset s) s = ((conditionsOf .reset s).find? (·.1)).map (·.2) := by
    simp [refusal, allowed, cmdClass, ha]
  rw [hopen, conditionsOf]
  cases paramsOk s.cfg
  · rfl
  · cases s.load.loaded s.cfg <;> rfl

theorem exec_reset_of_badConfig (ha : s.env.agent = .host) (hp : paramsOk s.cfg = false) :
    exec .reset s = .next (s.refuse .badConfig) :=
  exec_refused (by simp [refusal_reset_of_host ha, hp])

theorem exec_reset_of_notLoaded (ha : s.env.agent = .host) (hp : paramsOk s.cfg = true)
    (hl : s.load.loaded s.cfg = false) : exec .reset s = .next (s.refuse .notLoaded) :=
  exec_refused (by simp [refusal_reset_of_host ha, hp, hl])

theorem exec_reset_of_allocFailure (ha : s.env.agent = .host) (hp : paramsOk s.cfg = true) (hl : s.load.loaded s.cfg = true)
    {sub : Subsystem} (hs : allocFailure s.env.platform = some sub) : exec .reset s = .next (s.failInit sub) := by
  have hopen : refusal (cmdClass .reset) (conditionsOf .reset s) s = none := by
    simp [refusal_reset_of_host ha, hp, hl]
  have hreboot : s.reboot = s.failInit sub := by simp [State.reboot, hs]
  rw [exec_effect hopen]
  exact congrArg _ hreboot

/-- The subsystem that fails is the first, in the order of R380, that cannot be set up (R382). -/
theorem allocFailure_of_first {p : Platform} {sub : Subsystem}
    (h : sub = .mio ∧ p.allocMio = false ∨ sub = .spc ∧ p.allocMio = true ∧ p.allocSpc = false ∨
      sub = .wsg ∧ p.allocMio = true ∧ p.allocSpc = true ∧ p.allocWsg = false ∨
      sub = .orch ∧ p.allocMio = true ∧ p.allocSpc = true ∧ p.allocWsg = true ∧ p.allocOrch = false) :
    allocFailure p = some sub := by
  obtain ⟨rfl, hmio⟩ | ⟨rfl, hmio, hspc⟩ | ⟨rfl, hmio, hspc, hwsg⟩ | ⟨rfl, hmio, hspc, hwsg, horch⟩ := h
  · simp [allocFailure, hmio]
  · simp [allocFailure, hmio, hspc]
  · simp [allocFailure, hmio, hspc, hwsg]
  · simp [allocFailure, hmio, hspc, hwsg, horch]

/-! ### The first transaction -/

/-- Before the first `RESET` any other instruction is refused, whoever presents it (R386). -/
theorem exec_before_reset (hp : s.orch.phase = .reset) (hf : s.orch.fault = none) {i : Instr} (hi : i ≠ .reset) :
    exec i s = .next (s.refuse .badPhase) :=
  exec_refused (refusal_of_closed hf (allowed_of_reset hp (fun h => hi (cmdClass_eq_reset h)) _))

/-- The step in which HOST presents a legal word. -/
theorem step_host_word {w : Word} {rest : List Input} {i : Instr} (h : s.env.inputs = .host w :: rest)
    (hw : decode s.cfg w = some i) : step s = exec i ((s.setInputs rest).setAgent .host) := by
  have hw' : decode (s.setInputs rest).cfg w = some i := hw
  simp only [step, advance, h, present, hw']

/-- The state the first `RESET` leaves, when HOST presents it to the machine at power-up. -/
def State.firstReset : State := ((State.reset.setInputs []).setAgent .host).rebooted

/-- At power-up the word of `RESET` is carried out: the record is P0, the tables are blank and every subsystem can be set up. -/
theorem step_reset_at_powerUp : step (State.reset.setInputs [.host 0x80000000#32]) = .next State.firstReset := by
  have hword : decode p0 0x80000000#32 = some .reset := by decide
  rw [step_host_word (i := .reset) rfl hword]
  exact exec_reset_of_ok rfl (by decide) (by decide) rfl

theorem firstReset_tatAt {r q : Nat} (hr : r < 36) (hq : q < 28) : (State.firstReset.tatAt r q : Int) = tas p0.geo r q :=
  rebooted_tatAt (s := (State.reset.setInputs []).setAgent .host) (by decide) hr hq

theorem reset_sndAt (r : Nat) : State.reset.sndAt r = 0#8 := by
  simp [State.sndAt, State.reset, Mio.reset]

end Sys2Proof.Machine

open Sys2Proof Sys2Proof.Machine

/-- Settles O20: the record's check is the conjunction of its four parts, and each way to fail is an equation of `exec .reset`. -/
theorem resetFails : Obligations.ResetFails := by
  refine ⟨fun c => ?_, fun s ha => ⟨fun hp => ?_, fun hp hl => ?_, fun hp hl => ?_⟩⟩
  · simp only [paramsOk, Bool.and_eq_true, geoOk_iff, sprOk_iff, wsgOk_iff, restOk_iff]
    tauto
  · exact ⟨_, exec_reset_of_badConfig ha hp, refuse_blockSame s _, rfl, rfl⟩
  · exact ⟨_, exec_reset_of_notLoaded ha hp hl, refuse_blockSame s _, rfl, rfl⟩
  · intro p sub hsub
    exact ⟨_, exec_reset_of_allocFailure ha hp hl (allocFailure_of_first hsub), rfl, rfl, rfl, rfl, rfl, rfl⟩

/-- Settles O21: `State.reset` holds the values of R65 as it is written, everything but `RESET` finds the access table closed
(`exec_before_reset`), and the first `RESET` leaves `State.firstReset` (`step_reset_at_powerUp`). -/
theorem startsAsAfterReset : Obligations.StartsAsAfterReset := by
  refine ⟨rfl, fun _ => rfl, reset_sndAt, rfl, rfl, rfl, replicate_reset_get, rfl, rfl, rfl, rfl, rfl, rfl, rfl, rfl, rfl,
    rfl, rfl, rfl, rfl, rfl, rfl, fun i a hi => ?_, State.firstReset, step_reset_at_powerUp, rfl, rfl, rfl, rfl, rfl, rfl, rfl,
    rfl, rfl, rfl, rfl, rfl, rfl, rfl, rfl, rfl, fun _ _ => firstReset_tatAt, ?_, ?_⟩
  · exact ⟨_, exec_before_reset rfl rfl hi, refuse_blockSame (State.reset.setAgent a) _, rfl⟩
  · exact Int.ofNat_inj.1 (firstReset_tatAt (r := 0) (q := 0) (by decide) (by decide))
  · exact Int.ofNat_inj.1 (firstReset_tatAt (r := 2) (q := 0) (by decide) (by decide))
end
